-- ==== Sys2Proof/Word.lean ====
section
/-! DEFINITION. The widths the block computes with (00_scope.md rule R9). -/

namespace Sys2Proof

/-- A transfer byte, an identity byte or a ROM command byte (R9). -/
abbrev Byte := BitVec 8

/-- Eight byte registers: the identity register file `id[0..7]` (R32) or `rxb[0..7]` (R45). -/
abbrev ByteFile := Vector Byte 8

end Sys2Proof
end

