-- ==== Sys2Proof/Config.lean ====
section
/-! DEFINITION. What an implementation fixes (00_scope.md rules R5, R11, R13), the values of the input ports at one
tick (10_state.md rule R52), and the free values of the model: opaque constants that nothing can evaluate. -/

namespace Sys2Proof

/-- The timing class, fixed at block reset (R13, R14). -/
inductive Speed where
  | standard
  | overdrive
deriving DecidableEq, Repr, Inhabited

/-- The parameters and options of the block, fixed for its life (R5, R11, R13). Durations are counts of ticks. The
constraints on them are `Config.valid`, the reference values `Config.reference`, both in Machine/Params.lean. -/
structure Config where
  /-- `T_RESET_MIN`: minimum reset low width. -/
  tResetMin : Nat
  /-- `T_RESET_DEADLINE`: bound on a reset low measurement. -/
  tResetDeadline : Nat
  /-- `T_PDH`: delay after reset release before presence. -/
  tPdh : Nat
  /-- `T_PDL`: presence pulse low width. -/
  tPdl : Nat
  /-- `T_SAMPLE`: receive sampling point after slot start. -/
  tSample : Nat
  /-- `T_W0LOW`: low period when sending a 0. -/
  tW0Low : Nat
  /-- `T_SLOT_WAIT`: bound on the wait for a slot start. -/
  tSlotWait : Nat
  /-- `T_SLOT_LOW_MAX`: bound on the slot low time when `SLOT_END_BOUNDED`. -/
  tSlotLowMax : Nat
  /-- `T_INT_STRETCH`: end of a stretched reset. -/
  tIntStretch : Nat
  /-- `T_INT_PULSE`: width of the self-initiated reset-like pulse. -/
  tIntPulse : Nat
  /-- `T_WAKE_COMP`: ticks credited to a reset measured from a wake event. -/
  tWakeComp : Nat
  /-- `IN_LATENCY`: ticks between the line and the engine's sample of it. -/
  inLatency : Nat
  /-- `HAS_SLEEP`. -/
  hasSleep : Bool
  /-- `SLOT_END_BOUNDED`. -/
  slotEndBounded : Bool
  /-- `HAS_WRITE_ROM`. -/
  hasWriteRom : Bool
  /-- `HAS_COND_SEARCH`. -/
  hasCondSearch : Bool
  /-- `HAS_INTERRUPT_SIGNAL`. -/
  hasInterruptSignal : Bool
  /-- `READ_ROM_SELECTS`. -/
  readRomSelects : Bool
  /-- `SPEED`. -/
  speed : Speed
  /-- `F_TICK` of the STANDARD class, in Hz; `Config.fTick` gives the class's own (R14). -/
  fTickStandard : Nat
  /-- `DL_WIDTH`: bits of the signed deadline counter. -/
  dlWidth : Nat
deriving DecidableEq, Repr, Inhabited

/-- The values at the input ports of R52 during one tick. The line reaches the block as `extLow`, the pull of every
other agent on the wired-AND bus (R54): `ow_in` follows from it. -/
structure Inputs where
  /-- `rst_n`, block reset, active low (platform). -/
  rstN : Bool
  /-- `ext_low`: some other agent pulls the line low (bus environment). -/
  extLow : Bool
  /-- `wake` (platform). -/
  wake : Bool
  /-- `xreq_valid` (device layer). -/
  xreqValid : Bool
  /-- `xreq_op` (device layer). -/
  xreqOp : BitVec 3
  /-- `xreq_data` (device layer). -/
  xreqData : Byte
  /-- `dev_end` (device layer). -/
  devEnd : Bool
  /-- `irq_ack` (device layer). -/
  irqAck : Bool
  /-- `cond_valid` (device layer). -/
  condValid : Bool
  /-- `cond_alarm` (device layer). -/
  condAlarm : Bool
  /-- `cond_class` (device layer). -/
  condClass : BitVec 2
  /-- `init_family` (platform). -/
  initFamily : Byte
  /-- `init_serial` (platform): `initSerial[8k+7:8k]` is serial byte k+1. -/
  initSerial : BitVec 48
deriving DecidableEq, Repr, Inhabited

/-- FREE VALUE: the input ports at a tick past the known script (R8: the environment is a free draw under no law).
DESIGN CHOICE, safe: notes/assumptions/2.md. -/
opaque Config.freeInput : Nat → Inputs

/-- FREE VALUE: `ow_in` at a tick whose line value of `IN_LATENCY` ticks before is not known (R54 "a free draw").
DESIGN CHOICE, safe: notes/assumptions/13.md. -/
opaque Config.freeOwIn : Nat → Bool

/-- FREE VALUE: `nv_wr_serial` after the one tick of a persist request (R85 says what it is for that tick only).
DESIGN CHOICE, safe: notes/assumptions/6.md. -/
opaque Config.freeNvSerial : Nat → BitVec 48

/-- `NV_SERIAL_OFFSET`, OPEN: a platform address the block never sees (R13, R80; 92_eei_decisions.md D31). -/
opaque Config.nvSerialOffset : Nat

end Sys2Proof
end

