-- ==== Sys2Proof/Machine/Identity.lean ====
section
/-! DEFINITION. The CRC8 of the identity (20_memory.md rule R84), the identity load (R86) and the persisted serial
(R85). CRC8 is the spec's own choice from general knowledge: notes/assumptions/18.md. -/

namespace Sys2Proof.Machine

/-- `n` turns of the inner loop of R84 on the running value `c` and the byte `v`. -/
def crcBits : Nat → Byte → Byte → Byte
  | 0, c, _ => c
  | n + 1, c, v =>
    let mix := c.getLsbD 0 ^^ v.getLsbD 0
    crcBits n (if mix then (c >>> 1) ^^^ 0x8C else c >>> 1) (v >>> 1)

/-- CRC8 of a message, first byte first (R84). -/
def crc8 (bytes : List Byte) : Byte := bytes.foldl (crcBits 8) 0

/-- Byte k of a register file. -/
def byteAt (v : ByteFile) (k : BitVec 3) : Byte := v[k.toNat]'k.isLt

/-- Write byte k of a register file. -/
def setByteAt (v : ByteFile) (k : BitVec 3) (b : Byte) : ByteFile := v.set k.toNat b k.isLt

/-- The first seven bytes of a register file: what the checksum is computed over (R81). -/
def firstSeven (v : ByteFile) : List Byte := [v[0], v[1], v[2], v[3], v[4], v[5], v[6]]

/-- Byte k (k = 0 .. 5) of the 48-bit serial: bits 8k+7 to 8k (R52, R86). -/
def serialByte (serial : BitVec 48) (k : Nat) : Byte := serial.extractLsb' (8 * k) 8

/-- The identity loaded at block reset: family, six serial bytes, and the checksum, computed and never supplied (R86). -/
def loadIdentity (family : Byte) (serial : BitVec 48) : ByteFile :=
  #v[family, serialByte serial 0, serialByte serial 1, serialByte serial 2, serialByte serial 3, serialByte serial 4,
    serialByte serial 5,
    crc8 [family, serialByte serial 0, serialByte serial 1, serialByte serial 2, serialByte serial 3,
      serialByte serial 4, serialByte serial 5]]

/-- The six serial bytes as `nv_wr_serial` carries them: byte k+1 at bits 8k+7 to 8k (R85). -/
def packSerial (v : ByteFile) : BitVec 48 := v[6] ++ v[5] ++ v[4] ++ v[3] ++ v[2] ++ v[1]

end Sys2Proof.Machine
end

