-- ==== Sys2Proof/Machine/Params.lean ====
section
/-! DEFINITION. The constraints on the parameters (00_scope.md rule R12), their reference values (R11, R13) and the
time base (R10, R14). -/

namespace Sys2Proof

/-- The constraints (1) to (10) of R12; a configuration that breaks one has no meaning. -/
def Config.valid (c : Config) : Bool :=
  decide (1 ≤ c.tSample ∧ c.tSample < c.tSlotLowMax)
    && decide (1 ≤ c.tW0Low ∧ c.tW0Low + c.inLatency < c.tSlotLowMax)
    && decide (1 ≤ c.tResetMin ∧ c.tResetMin ≤ c.tResetDeadline)
    && decide (c.tResetDeadline + 2 ≤ c.tIntStretch)
    && decide (c.tResetMin ≤ c.tIntPulse)
    && decide (c.tSlotLowMax < c.tResetDeadline)
    && decide (1 ≤ c.tPdh ∧ 1 ≤ c.tPdl)
    && decide (1 ≤ c.tSlotWait)
    && decide (c.tWakeComp < c.tResetDeadline)
    && decide (c.tSlotWait < 2 ^ (c.dlWidth - 1) - 1 ∧ c.tResetDeadline < 2 ^ (c.dlWidth - 1) - 1
        ∧ c.tIntStretch < 2 ^ (c.dlWidth - 1) - 1 ∧ c.tIntPulse < 2 ^ (c.dlWidth - 1) - 1)

/-- The reference configuration: the reference columns of R11 and R13. -/
def Config.reference : Config where
  tResetMin := 480
  tResetDeadline := 960
  tPdh := 30
  tPdl := 120
  tSample := 15
  tW0Low := 30
  tSlotWait := 10000
  tSlotLowMax := 240
  tIntStretch := 3000
  tIntPulse := 600
  tWakeComp := 0
  inLatency := 0
  hasSleep := false
  slotEndBounded := true
  hasWriteRom := true
  hasCondSearch := true
  hasInterruptSignal := true
  readRomSelects := true
  speed := .standard
  fTickStandard := 1000000
  dlWidth := 16

/-- `F_TICK` in Hz: OVERDRIVE keeps every tick count and multiplies the rate by 8 (R14). -/
def Config.fTick (c : Config) : Nat :=
  match c.speed with
  | .standard => c.fTickStandard
  | .overdrive => 8 * c.fTickStandard

/-- The most negative value of the `DL_WIDTH`-bit signed deadline counter, where it saturates (R137, R304). -/
def Config.dlMin (c : Config) : Int := -((2 ^ (c.dlWidth - 1) : Nat) : Int)

end Sys2Proof
end

