-- ==== Sys2Proof/Syntax.lean ====
section
/-! DEFINITION. The instructions of the block: one constructor for each row of spec/opcode_table.json
(00_scope.md rule R3, 30_encoding.md rules R100 to R106), and the transfer operations the engine runs. -/

namespace Sys2Proof

/-- The six transfer operations, the codes 0 to 5 of R105. -/
inductive TransferOp where
  | recvBit
  | sendBit
  | recvByte
  | sendByte
  | searchBit
  | searchByte
deriving DecidableEq, Repr, Inhabited

/-- An instruction: a ROM command byte the master sends (format ROMCMD) or a request on the transfer port (format
XREQ). A XREQ row keeps every bit of its operand word, the ignored ones too, so that no bit of an encoding is lost. -/
inductive Instr where
  /-- SEARCH_ROM, 0xF0 (R232). -/
  | searchRom
  /-- READ_ROM, 0x33 (R233). -/
  | readRom
  /-- READ_ROM, the second code 0x0F (R233). -/
  | readRom0F
  /-- MATCH_ROM, 0x55 (R234). -/
  | matchRom
  /-- SKIP_ROM, 0xCC (R235). -/
  | skipRom
  /-- WRITE_ROM, 0xD5 when `HAS_WRITE_ROM` (R236). -/
  | writeRom
  /-- COND_SEARCH, 0xEC when `HAS_COND_SEARCH` (R237). -/
  | condSearch
  /-- RESUME, 0xA5 (R238). -/
  | resume
  /-- UNRECOGNIZED, every other byte (R239). -/
  | unrecognized (c : Byte)
  /-- RECV_BIT, op 0; the operand is ignored (R171). -/
  | recvBit (data : Byte)
  /-- SEND_BIT with data bit 0 = 0, op 1; data bits 7 to 1 are ignored (R172). -/
  | sendBit0 (rest : BitVec 7)
  /-- SEND_BIT with data bit 0 = 1, op 1; data bits 7 to 1 are ignored (R173). -/
  | sendBit1 (rest : BitVec 7)
  /-- RECV_BYTE, op 2; the operand is ignored (R174). -/
  | recvByte (data : Byte)
  /-- SEND_BYTE, op 3 (R175). -/
  | sendByte (data : Byte)
  /-- SEARCH_BIT, op 4; data bit 0 is the bit value (R177). -/
  | searchBit (data : Byte)
  /-- SEARCH_BYTE, op 5 (R178). -/
  | searchByte (data : Byte)
  /-- RESERVED_6, op 6 (R106). -/
  | reserved6 (data : Byte)
  /-- RESERVED_7, op 7 (R106). -/
  | reserved7 (data : Byte)
deriving DecidableEq, Repr, Inhabited

end Sys2Proof
end

