-- ==== Sys2Proof/Machine/State.lean ====
section
/-! DEFINITION. The state of the block (10_state.md rules R30 to R51), the reasons a step can stop, and the state after
block reset (R55). The codes of the enumerations (30_encoding.md rules R105 to R111) are in Machine/Codes.lean. -/

namespace Sys2Proof.Machine

/-- `st`, the engine state (R31, R110). `unused k` is the code 10 + k, which no transition reaches. -/
inductive EngineState where
  | idle
  | resetMeasure
  | intStretch
  | intPulse
  | presenceWait
  | presenceLow
  | romCmd
  | romExec
  | device
  | irqHook
  | unused (k : Fin 6)
deriving DecidableEq, Repr

/-- The fault codes (R108). -/
inductive FaultCode where
  | noFault
  | shortPulseTimeout
  | timeSlotTimeout
  | resetTooShort
  | presenceCheckFailed
  | externallyInterrupted
  | slotOverlongPulse
  | reserved
deriving DecidableEq, Repr

/-- The six faults of the block (R280). -/
inductive FaultKind where
  | shortPulseTimeout
  | timeSlotTimeout
  | resetTooShort
  | presenceCheckFailed
  | externallyInterrupted
  | slotOverlongPulse
deriving DecidableEq, Repr

/-- `te_phase` (R111). -/
inductive Phase where
  | idle
  | start
  | act
  | ending
deriving DecidableEq, Repr

/-- `te_client` (R111): who asked for the operation. -/
inductive Client where
  | rom
  | dev
deriving DecidableEq, Repr

/-- `te_dir` (R111). -/
inductive Dir where
  | recv
  | send
deriving DecidableEq, Repr

/-- `rom_step` (R111). -/
inductive RomStep where
  | rx
  | tx
deriving DecidableEq, Repr

/-- `xrsp_status` (R107). -/
inductive Status where
  | ok
  | mismatch
  | aborted
  | refused
deriving DecidableEq, Repr

/-- The deadline timer (R40): `dl_count`, a signed integer whose `DL_WIDTH`-bit range is an invariant
(notes/assumptions/9.md), and `dl_armed`. -/
structure Deadline where
  count : Int
  armed : Bool
deriving DecidableEq, Repr

/-- The transfer engine's registers (R44). -/
structure TransferEngine where
  phase : Phase
  op : TransferOp
  client : Client
  sr : Byte
  cnt : BitVec 3
  tri : BitVec 2
  dir : Dir
  cur : Bool
  d : Bool
deriving DecidableEq, Repr

/-- The ROM layer's registers (R45). -/
structure RomLayer where
  cmd : Byte
  idx : BitVec 3
  step : RomStep
  rxb : ByteFile
deriving DecidableEq, Repr

/-- The transfer response registers `xrsp_valid`, `xrsp_status`, `xrsp_data` (R48). -/
structure Response where
  valid : Bool
  status : Status
  data : Byte
deriving DecidableEq, Repr

/-- The persist request `nv_wr_valid`, `nv_wr_serial` (R51). -/
structure PersistRequest where
  valid : Bool
  serial : BitVec 48
deriving DecidableEq, Repr

/-- What stands around the block: the input-port values already known for the coming ticks (`script`, first is this
tick), the index of this tick's free draws (`tick`), and the line of the last `IN_LATENCY` ticks, newest first
(`lineHist`, R54). The model's own, not registers of the block: notes/assumptions/2.md, 13.md and 15.md. -/
structure Environment where
  script : List Inputs
  tick : Nat
  lineHist : List Bool
deriving DecidableEq, Repr

/-- The whole machine at one tick. -/
structure State where
  /-- The parameters and options, fixed at block reset (R5); the model's holder of them (notes/assumptions/3.md). -/
  cfg : Config
  /-- `st` (R31). -/
  st : EngineState
  /-- `id[0..7]` (R32). -/
  id : ByteFile
  /-- `awaiting_reset` (R34). -/
  awaitingReset : Bool
  /-- `resume_eligible` (R35). -/
  resumeEligible : Bool
  /-- `alarm_asserted` (R36). -/
  alarmAsserted : Bool
  /-- `int_class` (R37, R109). -/
  intClass : BitVec 2
  /-- `int_armed` (R38). -/
  intArmed : Bool
  /-- `fault_code` (R39). -/
  faultCode : FaultCode
  /-- `dl_count`, `dl_armed` (R40). -/
  dl : Deadline
  /-- `dly` (R41). -/
  dly : Nat
  /-- `prev_s` (R42). -/
  prevS : Bool
  /-- `te_*` (R44). -/
  te : TransferEngine
  /-- `rom_cmd`, `rom_idx`, `rom_step`, `rxb` (R45). -/
  rom : RomLayer
  /-- `rst_qualified` (R46). -/
  rstQualified : Bool
  /-- `xrsp_*` (R48). -/
  rsp : Response
  /-- `nv_wr_*` (R51). -/
  nv : PersistRequest
  /-- The environment (R8, R52, R54). -/
  env : Environment
deriving DecidableEq, Repr

/-- Faults that stop the machine: none. Every fault of the spec is a transition to a recovery state and nothing is
fatal (60_exceptions.md rules R285, R295; notes/assumptions/17.md). -/
inductive Fault where
deriving DecidableEq, Repr

/-- Why the model refuses a state. -/
inductive Refusal where
  /-- Raised by `exec` for an instruction without a meaning; safe. No arm raises it. -/
  | notModelled (mnemonic : String)
  /-- Raised by `step` when the configuration breaks a constraint of R12, which has no meaning; safe. -/
  | badConfiguration
  /-- Raised by `step` when `st` holds 10 + k, a code no transition reaches (R31); safe. -/
  | unreachableState (k : Fin 6)
deriving DecidableEq, Repr

/-- Every register at its reset value (R55), with the identity that the ports give at the reset tick (R86). -/
def State.afterReset (cfg : Config) (family : Byte) (serial : BitVec 48) (env : Environment) : State where
  cfg := cfg
  st := .idle
  id := loadIdentity family serial
  awaitingReset := true
  resumeEligible := false
  alarmAsserted := false
  intClass := 0
  intArmed := false
  faultCode := .noFault
  dl := ⟨-1, false⟩
  dly := 0
  prevS := false
  te := ⟨.idle, .recvBit, .rom, 0, 0, 0, .recv, false, false⟩
  rom := ⟨0, 0, .rx, Vector.replicate 8 0⟩
  rstQualified := false
  rsp := ⟨false, .ok, 0⟩
  nv := ⟨false, 0⟩
  env := env

/-- The machine right after block reset: the reference configuration (notes/assumptions/3.md), the identity ID0 of
95_test_vectors.md section 0 (notes/assumptions/4.md), tick 1 and no known input. -/
def State.reset : State :=
  State.afterReset Config.reference 0x3A 0x0000CFBBDAAA ⟨[], 1, []⟩

end Sys2Proof.Machine
end

