-- ==== Sys2Proof/Machine/Codes.lean ====
section
/-! DEFINITION. The bit codes of the block's enumerated registers (30_encoding.md rules R105, R107, R108, R110 and R111),
as 30_encoding.md numbers them. -/

namespace Sys2Proof.Machine

/-- `st[3:0]` (R110); `unused k` is 10 + k. -/
def EngineState.code : EngineState → BitVec 4
  | .idle => 0
  | .resetMeasure => 1
  | .intStretch => 2
  | .intPulse => 3
  | .presenceWait => 4
  | .presenceLow => 5
  | .romCmd => 6
  | .romExec => 7
  | .device => 8
  | .irqHook => 9
  | .unused k => BitVec.ofNat 4 (10 + k.val)

/-- The ten states the engine uses (R31). -/
def EngineState.used : EngineState → Bool
  | .idle => true
  | .resetMeasure => true
  | .intStretch => true
  | .intPulse => true
  | .presenceWait => true
  | .presenceLow => true
  | .romCmd => true
  | .romExec => true
  | .device => true
  | .irqHook => true
  | .unused _ => false

/-- `fault_code[2:0]` (R108). -/
def FaultCode.code : FaultCode → BitVec 3
  | .noFault => 0
  | .shortPulseTimeout => 1
  | .timeSlotTimeout => 2
  | .resetTooShort => 3
  | .presenceCheckFailed => 4
  | .externallyInterrupted => 5
  | .slotOverlongPulse => 6
  | .reserved => 7

/-- The code a fault writes (R108, R280). -/
def FaultKind.code : FaultKind → FaultCode
  | .shortPulseTimeout => .shortPulseTimeout
  | .timeSlotTimeout => .timeSlotTimeout
  | .resetTooShort => .resetTooShort
  | .presenceCheckFailed => .presenceCheckFailed
  | .externallyInterrupted => .externallyInterrupted
  | .slotOverlongPulse => .slotOverlongPulse

/-- `te_phase[1:0]` (R111). -/
def Phase.code : Phase → BitVec 2
  | .idle => 0
  | .start => 1
  | .act => 2
  | .ending => 3

/-- `te_op[2:0]`, the transfer opcode (R105). -/
def opCode : TransferOp → BitVec 3
  | .recvBit => 0
  | .sendBit => 1
  | .recvByte => 2
  | .sendByte => 3
  | .searchBit => 4
  | .searchByte => 5

/-- `te_client` (R111). -/
def Client.code : Client → BitVec 1
  | .rom => 0
  | .dev => 1

/-- `te_dir` (R111). -/
def Dir.code : Dir → BitVec 1
  | .recv => 0
  | .send => 1

/-- `rom_step` (R111). -/
def RomStep.code : RomStep → BitVec 1
  | .rx => 0
  | .tx => 1

/-- `xrsp_status[1:0]` (R107). -/
def Status.code : Status → BitVec 2
  | .ok => 0
  | .mismatch => 1
  | .aborted => 2
  | .refused => 3

end Sys2Proof.Machine
end

