-- ==== Sys2Proof/Machine/Flags.lean ====
section
/-! DEFINITION. The output ports of 10_state.md rule R53 that are functions of the state (R34, R38, R43, R47 to R51), and
the conditions on flags that several rules share. -/

namespace Sys2Proof.Machine

/-- `ow_drive` (R43): 1 pulls the line low. -/
def State.owDrive (s : State) : Bool :=
  decide (s.st = .presenceLow) || decide (s.st = .intStretch) || decide (s.st = .intPulse)
    || (decide (s.te.phase = .act) && decide (s.te.dir = .send) && !s.te.cur)

/-- `sel` (R47). -/
def State.sel (s : State) : Bool := decide (s.st = .device)

/-- `irq_req` (R49). -/
def State.irqReq (s : State) : Bool := decide (s.st = .irqHook)

/-- `sleep_req` (R50). -/
def State.sleepReq (s : State) : Bool := s.cfg.hasSleep && decide (s.st = .idle)

/-- `awaiting_reset_o` (R34). -/
def State.awaitingResetO (s : State) : Bool := s.awaitingReset

/-- `int_armed_o` (R38). -/
def State.intArmedO (s : State) : Bool := s.intArmed

/-- The output ports of the block during one tick (R53). -/
structure Outputs where
  owDrive : Bool
  sel : Bool
  xrsp : Response
  irqReq : Bool
  sleepReq : Bool
  nvWr : PersistRequest
  awaitingResetO : Bool
  intArmedO : Bool
deriving DecidableEq, Repr

/-- What the ports show of a state (R53); nothing else is visible. -/
def State.outputs (s : State) : Outputs where
  owDrive := s.owDrive
  sel := s.sel
  xrsp := s.rsp
  irqReq := s.irqReq
  sleepReq := s.sleepReq
  nvWr := s.nv
  awaitingResetO := s.awaitingResetO
  intArmedO := s.intArmedO

/-- A class-2 interrupt signal waits for its window (R156, R208). -/
def State.class2Pending (s : State) : Bool := s.cfg.hasInterruptSignal && decide (s.intClass = 2)

/-- A class-1 interrupt signal waits for the next reset (R206). -/
def State.class1Pending (s : State) : Bool := s.cfg.hasInterruptSignal && decide (s.intClass = 1)

/-- The session waits for the device layer: DEVICE with the transfer engine idle (R261, R265). -/
def State.sessionIdle (s : State) : Bool := decide (s.st = .device) && decide (s.te.phase = .idle)

end Sys2Proof.Machine
end

