-- ==== Sys2Proof/Machine/Operands.lean ====
section
/-! DEFINITION. Operands and bits: what a transfer operation keeps in `te_sr`, which bit a slot sends, how received bits
and results are assembled (20_memory.md rule R82, 30_encoding.md rule R113, 42_bit_byte.md rule R170). -/

namespace Sys2Proof.Machine

/-- `v[k]` (R15). -/
def bitOf (v : Byte) (k : BitVec 3) : Bool := v.getLsbD k.toNat

/-- `zext_8(b)` of one bit (R15). -/
def zextBit (b : Bool) : Byte := if b then 1 else 0

/-- `zext_8(k)` of a bit index. -/
def zextIndex (k : BitVec 3) : Byte := k.setWidth 8

/-- `v` with bit k set to `b` (R179). -/
def setBitOf (v : Byte) (k : BitVec 3) (b : Bool) : Byte :=
  (v &&& ~~~((1 : Byte) <<< k.toNat)) ||| (zextBit b <<< k.toNat)

/-- The value `te_begin` loads into `te_sr` (R170, R113). -/
def operandSr : TransferOp → Byte → Byte
  | .recvBit, _ => 0
  | .sendBit, data => zextBit (data.getLsbD 0)
  | .recvByte, _ => 0
  | .sendByte, data => data
  | .searchBit, data => zextBit (data.getLsbD 0)
  | .searchByte, data => data

/-- `setup_slot` of R170: the bit the slot sends, none when it receives. A triplet sends the bit, then its complement,
then receives the master's direction. -/
def slotBit : TransferOp → BitVec 3 → BitVec 2 → Byte → Option Bool
  | .recvBit, _, _, _ => none
  | .recvByte, _, _, _ => none
  | .sendBit, cnt, _, sr => some (bitOf sr cnt)
  | .sendByte, cnt, _, sr => some (bitOf sr cnt)
  | .searchBit, cnt, tri, sr => if tri = 0 then some (bitOf sr cnt) else if tri = 1 then some (!bitOf sr cnt) else none
  | .searchByte, cnt, tri, sr => if tri = 0 then some (bitOf sr cnt) else if tri = 1 then some (!bitOf sr cnt) else none

/-- Bit i of the identity's 64-bit wire sequence, `id[i div 8][i mod 8]` (R83). -/
def wireBit (v : ByteFile) (i : Fin 64) : Bool :=
  (v[i.val / 8]'(by omega)).getLsbD (i.val % 8)

end Sys2Proof.Machine
end

