-- ==== Sys2Proof/Machine/Ops.lean ====
section
/-! DEFINITION. The operations the rules share: the input ports and the line, the deadline timer and the delay, starting
a transfer operation, answering the device layer, taking a fault (60_exceptions.md rules R285 to R288) and block reset.

A rule at tick t reads the state `s` of tick t and writes into `n`, the state of tick t+1 under construction; a field it
does not write keeps its value (00_scope.md rule R16). Functions of one state write into it. -/

namespace Sys2Proof.Machine

open Host (Outcome)

/-- Go on with the next state; a fault or a refusal stands. -/
def andThen (o : Outcome State Fault Refusal) (f : State → Outcome State Fault Refusal) :
    Outcome State Fault Refusal :=
  match o with
  | .next s => f s
  | .fault r => .fault r
  | .refused r => .refused r

/-! ### Input ports, the line, the sample -/

/-- The input ports `k` ticks from now: the script while it lasts, then a free draw (notes/assumptions/2.md). -/
def State.inputAt (s : State) (k : Nat) : Inputs :=
  match s.env.script[k]? with
  | some x => x
  | none => Config.freeInput (s.env.tick + k)

/-- The input ports of this tick (R52). -/
def State.inp (s : State) : Inputs := s.inputAt 0

/-- The wired-AND bus line of this tick, 1 = high (R54). -/
def State.line (s : State) : Bool := !s.owDrive && !s.inp.extLow

/-- `line_s`, the engine's sample: the line of `IN_LATENCY` ticks ago, a free draw while that is not known (R54, R133). -/
def State.lineS (s : State) : Bool :=
  match s.cfg.inLatency with
  | 0 => s.line
  | k + 1 =>
    match s.env.lineHist[k]? with
    | some b => b
    | none => Config.freeOwIn s.env.tick

/-- `edge_fall` (R17, R134). -/
def State.edgeFall (s : State) : Bool := !s.lineS && s.prevS

/-! ### Deadline timer and delay -/

/-- `dl_start(n)` (R136). -/
def State.dlStart (k : Nat) (n : State) : State := { n with dl := ⟨(k : Int) - 1, true⟩ }

/-- `dl_stop()` (R138). -/
def State.dlStop (n : State) : State := { n with dl := ⟨-1, false⟩ }

/-- One tick of the deadline timer, saturating at the most negative value (R137). -/
def dlCount (cfg : Config) (d : Deadline) : Deadline :=
  if d.armed = true ∧ cfg.dlMin < d.count then { d with count := d.count - 1 } else d

/-- `dl_remaining()` (R137): a disarmed timer reports "elapsed". -/
def State.dlRemaining (s : State) : Int := if s.dl.armed then s.dl.count else -1

/-- One tick of a waiting state of `delay`: at 1 the delay ends with the state's exit action, else it counts down (R135). -/
def delayTick (s n : State) (exit : State → State) : State :=
  if s.dly = 1 then exit n else { n with dly := s.dly - 1 }

/-! ### Transfer engine -/

/-- `setup_slot` (R170). -/
def setupSlot (te : TransferEngine) : TransferEngine :=
  match slotBit te.op te.cnt te.tri te.sr with
  | none => { te with dir := .recv }
  | some b => { te with dir := .send, cur := b }

/-- Entry of a slot's START phase (R151). -/
def State.enterStart (n : State) : State :=
  State.dlStart n.cfg.tSlotWait { n with te := { n.te with phase := .start }, intArmed := true }

/-- The registers `te_begin` loads before the first slot is set up (R170). -/
def beginTe (op : TransferOp) (data : Byte) (client : Client) (te : TransferEngine) : TransferEngine :=
  { te with op := op, client := client, sr := operandSr op data, cnt := 0, tri := 0, d := false }

/-- `te_begin(op, data, client)` (R170). -/
def State.teBegin (op : TransferOp) (data : Byte) (client : Client) (n : State) : State :=
  State.enterStart { n with te := setupSlot (beginTe op data client n.te) }

/-- "next slot" of R179: set up the slot of the new indices and enter START. -/
def State.nextSlot (cnt : BitVec 3) (tri : BitVec 2) (n : State) : State :=
  State.enterStart { n with te := setupSlot { n.te with cnt := cnt, tri := tri } }

/-- `done` of R179, and the transfer engine's part of `select` and `not selected` (R240). -/
def State.teDone (n : State) : State := State.dlStop { n with te := { n.te with phase := .idle } }

/-- The response at the next tick (R262, R263, R266). -/
def State.respond (status : Status) (data : Byte) (n : State) : State := { n with rsp := ⟨true, status, data⟩ }

/-- Stop the transfer in progress at a fault or an interrupt pulse: the phase goes idle, the interrupt window closes and
a device client is answered ABORTED (R156, R176, R266, R285). -/
def State.abortTransfer (n : State) : State :=
  if n.te.phase = .idle then n
  else
    let m := { n with te := { n.te with phase := .idle }, intArmed := false }
    if n.te.client = .dev then m.respond .aborted 0 else m

/-! ### Reset measurement -/

/-- A transition into RESET_MEASURE with `dl_start(k)`: `awaiting_reset` is cleared at every one of them (R34), and each sets
`rst_qualified` (R215); notes/assumptions/14.md. -/
def State.enterMeasure (k : Nat) (qualified : Bool) (n : State) : State :=
  State.dlStart k { n with st := .resetMeasure, awaitingReset := false, rstQualified := qualified }

/-! ### Faults and recovery -/

/-- Recovery to IDLE (R286). -/
def State.recoverToIdle (n : State) : State :=
  State.dlStop { n with st := .idle, awaitingReset := true, rstQualified := false }

/-- Recovery to RESET_MEASURE; the shortened deadline makes the width count from the slot's falling edge (R287). -/
def State.recoverToMeasure (n : State) : State :=
  n.enterMeasure (n.cfg.tResetDeadline - n.cfg.tSlotLowMax - 1) false

/-- Recovery to IRQ_HOOK (R288); `awaiting_reset` is 1 at every entry of IRQ_HOOK (R34, notes/assumptions/14.md). -/
def State.recoverToIrqHook (n : State) : State := State.dlStop { n with st := .irqHook, awaitingReset := true }

/-- The one recovery destination of a fault (R280, R285). -/
def State.recover : FaultKind → State → State
  | .shortPulseTimeout, n => n.recoverToIdle
  | .timeSlotTimeout, n => n.recoverToIdle
  | .resetTooShort, n => n.recoverToIdle
  | .presenceCheckFailed, n => n.recoverToIdle
  | .externallyInterrupted, n => n.recoverToIrqHook
  | .slotOverlongPulse, n => n.recoverToMeasure

/-- Taking a fault (R285): the code is written, the transfer in progress stops, and the engine goes to the fault's one
recovery destination in the same tick. Nothing else is saved, and there is no return (R291). -/
def State.raiseFault (f : FaultKind) (n : State) : State :=
  State.recover f (State.abortTransfer { n with faultCode := f.code })

/-- The way out of the interrupt hook on `irq_ack` (R268), the nearest thing to a return; a transition into IDLE stops the
deadline (R138) and sets `awaiting_reset` (R34): notes/assumptions/14.md. -/
def State.leaveIrqHook (n : State) : State := State.dlStop { n with st := .idle, awaitingReset := true }

/-! ### Interrupt signals -/

/-- Entry of INT_PULSE, with the class consumed (R156, R208). -/
def State.enterIntPulse (n : State) : State :=
  { n with st := .intPulse, dly := n.cfg.tIntPulse, intClass := 0, awaitingReset := false }

/-! ### Device layer -/

/-- `dev_end` (R265). -/
def State.endSession (n : State) : State := State.dlStop { n with st := .idle, awaitingReset := true }

/-- `set_condition` (R267, R112): both fields together, a class of 3 leaves the class unchanged. -/
def State.setCondition (alarm : Bool) (cls : BitVec 2) (n : State) : State :=
  { n with alarmAsserted := alarm, intClass := if cls = 3 then n.intClass else cls }

/-! ### What every tick does -/

/-- `nv_wr_*` at the tick after: the request lasts one tick, and its serial is a free value from then on
(R51, R85; notes/assumptions/6.md). -/
def nvNext (tick : Nat) (nv : PersistRequest) : PersistRequest :=
  if nv.valid then ⟨false, Config.freeNvSerial tick⟩ else nv

/-- The writes of every tick that no transition makes: the line history, the deadline's count, the end of a response and
of a persist request (R42, R48, R51, R137). -/
def State.beginTick (s : State) : State :=
  { s with
    prevS := s.lineS
    dl := dlCount s.cfg s.dl
    rsp := ⟨false, .ok, 0⟩
    nv := nvNext s.env.tick s.nv }

/-- The environment one tick later: the next inputs, the next draws, the line remembered for `IN_LATENCY` ticks. -/
def State.nextEnv (s : State) : Environment :=
  ⟨s.env.script.tail, s.env.tick + 1, (s.line :: s.env.lineHist).take s.cfg.inLatency⟩

/-- The end of a tick: `set_condition`, which wins over every engine write of the tick (R267), and the passage of time
outside the block. -/
def State.endTick (s n : State) : State :=
  let m := if s.inp.condValid then n.setCondition s.inp.condAlarm s.inp.condClass else n
  { m with env := s.nextEnv }

/-- Block reset at a tick with `rst_n = 0`: every register at its reset value, the identity from the ports (R310, R86). -/
def State.blockReset (s : State) : State :=
  State.afterReset s.cfg s.inp.initFamily s.inp.initSerial s.nextEnv

end Sys2Proof.Machine
end

