-- ==== Sys2Proof/Machine/Requests.lean ====
section
/-! DEFINITION. The meanings of the transfer requests at the tick they are presented (45_device_interface.md rules R261 to
R266, 30_encoding.md rules R105, R106 and R113): accepted, answered REFUSED, or ignored while an operation runs. The slots
of an accepted operation are run by the transfer engine (Machine/TimeSlot.lean). -/

namespace Sys2Proof.Machine

open Host (Outcome)

/-- A request presented at this tick for the operation `op`, none for a reserved opcode. Outside a session: REFUSED
(R263 (a)). While the transfer engine is busy: ignored (R264). With `dev_end` or a reserved opcode: REFUSED
(R263 (c), (b)). Else the operation begins (R261). -/
def State.request (op : Option TransferOp) (data : Byte) (s : State) : State :=
  if s.st ≠ .device then s.respond .refused 0
  else if s.te.phase ≠ .idle then s
  else if s.inp.devEnd then s.respond .refused 0
  else
    match op with
    | none => s.respond .refused 0
    | some o => s.teBegin o data .dev

/-- RECV_BIT (R171). -/
def execRecvBit (data : Byte) (s : State) : Outcome State Fault Refusal :=
  .next (s.request (some .recvBit) data)

/-- SEND_BIT with bit 0 (R172). -/
def execSendBit0 (rest : BitVec 7) (s : State) : Outcome State Fault Refusal :=
  .next (s.request (some .sendBit) (rest ++ 0#1))

/-- SEND_BIT with bit 1 (R173). -/
def execSendBit1 (rest : BitVec 7) (s : State) : Outcome State Fault Refusal :=
  .next (s.request (some .sendBit) (rest ++ 1#1))

/-- RECV_BYTE (R174). -/
def execRecvByte (data : Byte) (s : State) : Outcome State Fault Refusal :=
  .next (s.request (some .recvByte) data)

/-- SEND_BYTE (R175). -/
def execSendByte (data : Byte) (s : State) : Outcome State Fault Refusal :=
  .next (s.request (some .sendByte) data)

/-- SEARCH_BIT (R177). -/
def execSearchBit (data : Byte) (s : State) : Outcome State Fault Refusal :=
  .next (s.request (some .searchBit) data)

/-- SEARCH_BYTE (R178). -/
def execSearchByte (data : Byte) (s : State) : Outcome State Fault Refusal :=
  .next (s.request (some .searchByte) data)

/-- RESERVED_6 (R106). -/
def execReserved6 (data : Byte) (s : State) : Outcome State Fault Refusal :=
  .next (s.request none data)

/-- RESERVED_7 (R106). -/
def execReserved7 (data : Byte) (s : State) : Outcome State Fault Refusal :=
  .next (s.request none data)

end Sys2Proof.Machine
end

