-- ==== Sys2Proof/Machine/RomCommands.lean ====
section
/-! DEFINITION. The meanings of the ROM commands (44_rom_commands.md rules R230 to R241). A ROM command acts at the
completion tick of its command byte (the dispatch of R231) and, in ROM_EXEC, at the completion tick of each of its data
transfers; each meaning holds both (notes/assumptions/1.md). `te.sr`, `te.cnt` and `te.d` hold the completed transfer's
result. -/

namespace Sys2Proof.Machine

open Host (Outcome)

/-- `select` (R240). -/
def State.select (n : State) : State := State.teDone { n with st := .device }

/-- `not selected` (R240). -/
def State.notSelected (n : State) : State := State.teDone { n with st := .idle, awaitingReset := true }

/-- The first two lines of the dispatch: the byte is kept, and every command but RESUME clears eligibility (R231). -/
def State.receiveCommand (c : Byte) (n : State) : State :=
  { n with
    rom := { n.rom with cmd := c, idx := 0 }
    resumeEligible := if c = 0xA5 then n.resumeEligible else false }

/-- `st <- ROM_EXEC; te_begin(op, data, ROM)` (R231). -/
def State.startRom (op : TransferOp) (data : Byte) (n : State) : State :=
  State.teBegin op data .rom { n with st := .romExec }

/-- Step `rom_idx` and begin the next transfer with the identity byte of the new index (R232, R233, R236). -/
def State.nextIdByte (op : TransferOp) (n : State) : State :=
  State.teBegin op (byteAt n.id (n.rom.idx + 1)) .rom { n with rom := { n.rom with idx := n.rom.idx + 1 } }

/-- Keep the received byte in `rxb[rom_idx]` (R234, R236). -/
def State.storeRx (n : State) : State :=
  { n with rom := { n.rom with rxb := setByteAt n.rom.rxb n.rom.idx n.te.sr } }

/-- Step `rom_idx` and receive the next byte (R234, R236). -/
def State.nextRxByte (n : State) : State :=
  State.teBegin .recvByte 0 .rom { n with rom := { n.rom with idx := n.rom.idx + 1 } }

/-- The completed search byte matched: the last direction bit is the last search bit (R179). -/
def State.searchMatched (n : State) : Bool := n.te.d == bitOf n.te.sr n.te.cnt

/-- The completion of a search byte (R232): both ends are "not selected". -/
def State.searchNext (n : State) : State :=
  if n.searchMatched = false then n.notSelected
  else if n.rom.idx = 7 then n.notSelected
  else n.nextIdByte .searchByte

/-- The completion of a sent identity byte, with the outcome after the last one (R233, R236). -/
def State.sendNext (last : State → State) (n : State) : State :=
  if n.rom.idx = 7 then last n else n.nextIdByte .sendByte

/-- After READ ROM's last byte (R233). -/
def State.readRomEnd (n : State) : State := if n.cfg.readRomSelects then n.select else n.notSelected

/-- The completion of a byte received by MATCH ROM (R234): one comparison, after the eighth. -/
def State.matchNext (n : State) : State :=
  let m := n.storeRx
  if n.rom.idx = 7 then
    if m.rom.rxb = n.id then State.select { m with resumeEligible := true, alarmAsserted := false }
    else m.notSelected
  else m.nextRxByte

/-- WRITE ROM's check on the eight received bytes: this device's family and a right checksum (R236). -/
def State.writeAccepted (n : State) : Bool :=
  decide (n.rom.rxb[0] = n.id[0]) && decide (n.rom.rxb[7] = crc8 (firstSeven n.rom.rxb))

/-- Adopt the received identity, all of `id[1..7]` at one tick, and request its persistence (R236, R85, R90). -/
def State.adoptIdentity (n : State) : State :=
  { n with
    id := #v[n.id[0], n.rom.rxb[1], n.rom.rxb[2], n.rom.rxb[3], n.rom.rxb[4], n.rom.rxb[5], n.rom.rxb[6], n.rom.rxb[7]]
    nv := ⟨true, packSerial n.rom.rxb⟩ }

/-- The turn of WRITE ROM from receiving to echoing (R236). -/
def State.startEcho (n : State) : State :=
  State.teBegin .sendByte n.id[0] .rom { n with rom := { n.rom with step := .tx, idx := 0 } }

/-- The completion of a transfer of WRITE ROM (R236). -/
def State.writeNext (n : State) : State :=
  match n.rom.step with
  | .rx =>
    let m := n.storeRx
    if n.rom.idx = 7 then
      if m.writeAccepted then m.adoptIdentity.startEcho else m.startEcho
    else m.nextRxByte
  | .tx => n.sendNext State.notSelected

/-- SEARCH_ROM (R232). -/
def execSearchRom (s : State) : Outcome State Fault Refusal :=
  .next (if s.st = .romExec then s.searchNext else (s.receiveCommand 0xF0).startRom .searchByte s.id[0])

/-- READ_ROM, code 0x33 (R233). -/
def execReadRom (s : State) : Outcome State Fault Refusal :=
  .next (if s.st = .romExec then s.sendNext State.readRomEnd
    else (s.receiveCommand 0x33).startRom .sendByte s.id[0])

/-- READ_ROM, code 0x0F (R233). -/
def execReadRom0F (s : State) : Outcome State Fault Refusal :=
  .next (if s.st = .romExec then s.sendNext State.readRomEnd
    else (s.receiveCommand 0x0F).startRom .sendByte s.id[0])

/-- MATCH_ROM (R234). -/
def execMatchRom (s : State) : Outcome State Fault Refusal :=
  .next (if s.st = .romExec then s.matchNext else (s.receiveCommand 0x55).startRom .recvByte 0)

/-- SKIP_ROM (R235). -/
def execSkipRom (s : State) : Outcome State Fault Refusal :=
  .next (s.receiveCommand 0xCC).select

/-- WRITE_ROM (R236). -/
def execWriteRom (s : State) : Outcome State Fault Refusal :=
  .next (if s.st = .romExec then s.writeNext
    else
      let n := s.receiveCommand 0xD5
      State.startRom .recvByte 0 { n with rom := { n.rom with step := .rx } })

/-- COND_SEARCH (R237). -/
def execCondSearch (s : State) : Outcome State Fault Refusal :=
  .next (if s.st = .romExec then s.searchNext
    else if s.alarmAsserted then (s.receiveCommand 0xEC).startRom .searchByte s.id[0]
    else (s.receiveCommand 0xEC).notSelected)

/-- RESUME (R238). -/
def execResume (s : State) : Outcome State Fault Refusal :=
  .next (if s.resumeEligible then (s.receiveCommand 0xA5).select else (s.receiveCommand 0xA5).notSelected)

/-- UNRECOGNIZED (R239). -/
def execUnrecognized (c : Byte) (s : State) : Outcome State Fault Refusal :=
  .next (s.receiveCommand c).notSelected

end Sys2Proof.Machine
end

