-- ==== Sys2Proof/Machine/Dispatch.lean ====
section
/-! DEFINITION. One arm for each instruction. -/

namespace Sys2Proof.Machine
open Host

def exec (i : Instr) (s : State) : Host.Outcome State Fault Refusal :=
  match i with
  | .searchRom => Sys2Proof.Machine.execSearchRom s
  | .readRom => Sys2Proof.Machine.execReadRom s
  | .readRom0F => Sys2Proof.Machine.execReadRom0F s
  | .matchRom => Sys2Proof.Machine.execMatchRom s
  | .skipRom => Sys2Proof.Machine.execSkipRom s
  | .writeRom => Sys2Proof.Machine.execWriteRom s
  | .condSearch => Sys2Proof.Machine.execCondSearch s
  | .resume => Sys2Proof.Machine.execResume s
  | .unrecognized c => Sys2Proof.Machine.execUnrecognized c s
  | .recvBit data => Sys2Proof.Machine.execRecvBit data s
  | .sendBit0 rest => Sys2Proof.Machine.execSendBit0 rest s
  | .sendBit1 rest => Sys2Proof.Machine.execSendBit1 rest s
  | .recvByte data => Sys2Proof.Machine.execRecvByte data s
  | .sendByte data => Sys2Proof.Machine.execSendByte data s
  | .searchBit data => Sys2Proof.Machine.execSearchBit data s
  | .searchByte data => Sys2Proof.Machine.execSearchByte data s
  | .reserved6 data => Sys2Proof.Machine.execReserved6 data s
  | .reserved7 data => Sys2Proof.Machine.execReserved7 data s

end Sys2Proof.Machine
end

