-- ==== Sys2Proof/WellFormed.lean ====
section
/-! DEFINITION. Which instructions exist under a configuration (30_encoding.md rules R101 to R103). -/

namespace Sys2Proof

/-- The ROM command codes with a row of their own under a configuration: the six that are always there, 0xD5 and
0xEC when their option is on (R101, R102). -/
def Config.romCodes (c : Config) : List Byte :=
  [0xF0, 0x33, 0x0F, 0x55, 0xCC, 0xA5] ++ (if c.hasWriteRom then [0xD5] else [])
    ++ (if c.hasCondSearch then [0xEC] else [])

/-- An optional command exists when its option is on; UNRECOGNIZED is a byte that no enabled row matches (R102). -/
def Instr.wf (c : Config) : Instr → Bool
  | .searchRom => true
  | .readRom => true
  | .readRom0F => true
  | .matchRom => true
  | .skipRom => true
  | .writeRom => c.hasWriteRom
  | .condSearch => c.hasCondSearch
  | .resume => true
  | .unrecognized b => !c.romCodes.contains b
  | .recvBit _ => true
  | .sendBit0 _ => true
  | .sendBit1 _ => true
  | .recvByte _ => true
  | .sendByte _ => true
  | .searchBit _ => true
  | .searchByte _ => true
  | .reserved6 _ => true
  | .reserved7 _ => true

end Sys2Proof
end

