-- ==== Sys2Proof/Decode.lean ====
section
/-! DEFINITION. The decoder and the encoder (30_encoding.md rules R100 to R106, R113). A ROMCMD instruction is one
byte; a XREQ instruction is the 11-bit word of R104 in two bytes, `data` first (notes/assumptions/12.md). -/

namespace Sys2Proof

/-- The instruction a received ROM command byte spells: exact byte equality, UNRECOGNIZED for every byte no enabled
row matches (R101 to R103). -/
def decodeRomCmd (cfg : Config) (c : Byte) : Instr :=
  if c = 0xF0 then .searchRom
  else if c = 0x33 then .readRom
  else if c = 0x0F then .readRom0F
  else if c = 0x55 then .matchRom
  else if c = 0xCC then .skipRom
  else if c = 0xD5 ∧ cfg.hasWriteRom = true then .writeRom
  else if c = 0xEC ∧ cfg.hasCondSearch = true then .condSearch
  else if c = 0xA5 then .resume
  else .unrecognized c

/-- The instruction a transfer request spells (R104, R105); only SEND_BIT's two rows look at a data bit. -/
def decodeXreq (op : BitVec 3) (data : Byte) : Instr :=
  match op.toNat with
  | 0 => .recvBit data
  | 1 => if data.getLsbD 0 then .sendBit1 (data.extractLsb' 1 7) else .sendBit0 (data.extractLsb' 1 7)
  | 2 => .recvByte data
  | 3 => .sendByte data
  | 4 => .searchBit data
  | 5 => .searchByte data
  | 6 => .reserved6 data
  | _ => .reserved7 data

/-- Why a list of bytes spells no instruction. -/
inductive DecodeError where
  /-- Neither one byte (ROMCMD) nor two (XREQ): R100 has no other length. -/
  | length (n : Nat)
  /-- Two bytes whose second has a bit above the three of `xreq_op` set: no such word exists (R104). -/
  | opcodeRange (op : Byte)
deriving DecidableEq, Repr

/-- The decoder on bytes, total, rejecting by name. -/
def decode (cfg : Config) : List Byte → Except DecodeError Instr
  | [c] => .ok (decodeRomCmd cfg c)
  | [data, op] => if op.toNat < 8 then .ok (decodeXreq (op.setWidth 3) data) else .error (.opcodeRange op)
  | bs => .error (.length bs.length)

/-- The two bytes of a XREQ word. -/
def xreqBytes (op : BitVec 3) (data : Byte) : List Byte := [data, op.setWidth 8]

/-- The bytes of an instruction, from the encodings of R101 and R105. -/
def encode : Instr → List Byte
  | .searchRom => [0xF0]
  | .readRom => [0x33]
  | .readRom0F => [0x0F]
  | .matchRom => [0x55]
  | .skipRom => [0xCC]
  | .writeRom => [0xD5]
  | .condSearch => [0xEC]
  | .resume => [0xA5]
  | .unrecognized c => [c]
  | .recvBit data => xreqBytes 0 data
  | .sendBit0 rest => xreqBytes 1 (rest ++ 0#1)
  | .sendBit1 rest => xreqBytes 1 (rest ++ 1#1)
  | .recvByte data => xreqBytes 2 data
  | .sendByte data => xreqBytes 3 data
  | .searchBit data => xreqBytes 4 data
  | .searchByte data => xreqBytes 5 data
  | .reserved6 data => xreqBytes 6 data
  | .reserved7 data => xreqBytes 7 data

/-- `w` as `n` bytes, least significant first. -/
def littleBytes : Nat → Nat → List Byte
  | 0, _ => []
  | n + 1, w => BitVec.ofNat 8 w :: littleBytes n (w / 256)

/-- The bytes of an instruction whose bits are `w`, numbered as spec/opcode_table.json numbers them, `nbits` of them;
an instruction is at least one byte long. -/
def tableBytes (nbits w : Nat) : List Byte := littleBytes (max 1 ((nbits + 7) / 8)) w

/-- The instruction the decoder reads from a word of the opcode table, in the reference configuration. -/
def decodeTableWord (nbits w : Nat) : Option Instr :=
  match decode Config.reference (tableBytes nbits w) with
  | .ok i => some i
  | .error _ => none

/-- The transfer operation a request asks for and its operand; none for the reserved opcodes, which spell no operation
(R106), and for a ROM command. -/
def Instr.transfer : Instr → Option (TransferOp × Byte)
  | .searchRom => none
  | .readRom => none
  | .readRom0F => none
  | .matchRom => none
  | .skipRom => none
  | .writeRom => none
  | .condSearch => none
  | .resume => none
  | .unrecognized _ => none
  | .recvBit data => some (.recvBit, data)
  | .sendBit0 rest => some (.sendBit, rest ++ 0#1)
  | .sendBit1 rest => some (.sendBit, rest ++ 1#1)
  | .recvByte data => some (.recvByte, data)
  | .sendByte data => some (.sendByte, data)
  | .searchBit data => some (.searchBit, data)
  | .searchByte data => some (.searchByte, data)
  | .reserved6 _ => none
  | .reserved7 _ => none

end Sys2Proof
end

