-- ==== Sys2Proof/Machine/Fetch.lean ====
section
/-! DEFINITION. Where an instruction comes from: the transfer port (30_encoding.md rule R104) or the byte the transfer
engine has received (44_rom_commands.md rule R231); and how a test places one there (notes/assumptions/5.md). -/

namespace Sys2Proof.Machine

/-- The request presented at this tick (R104). -/
def State.requested (s : State) : Option Instr :=
  if s.inp.xreqValid then some (decodeXreq s.inp.xreqOp s.inp.xreqData) else none

/-- The ROM command that acts when a transfer of client ROM completes: in ROM_EXEC the command in progress, else the
command of the byte just received (R230, R231). -/
def State.commandAt (n : State) : Instr :=
  if n.st = .romExec then decodeRomCmd n.cfg n.rom.cmd else decodeRomCmd n.cfg n.te.sr

/-- A tick at which nothing happens at the ports: no reset, the line released, no request. -/
def quietInputs : Inputs where
  rstN := true
  extLow := false
  wake := false
  xreqValid := false
  xreqOp := 0
  xreqData := 0
  devEnd := false
  irqAck := false
  condValid := false
  condAlarm := false
  condClass := 0
  initFamily := 0
  initSerial := 0

/-- `s` with `x` at the input ports of this tick. -/
def State.withInputs (s : State) (x : Inputs) : State :=
  { s with env := { s.env with script := x :: s.env.script.tail } }

/-- `s` in an idle session with a request presented at this tick. -/
def State.placeRequest (s : State) (op : BitVec 3) (data : Byte) : State :=
  State.withInputs { s with st := .device, awaitingReset := false, te := { s.te with phase := .idle } }
    { quietInputs with xreqValid := true, xreqOp := op, xreqData := data }

/-- `s` at the completion tick of the command byte `c`: the eighth slot of the receive of R212 is in END, its bit is bit 7
of `c`, and the line is high. -/
def State.placeRomCommand (s : State) (c : Byte) : State :=
  State.withInputs
    { s with
      st := .romCmd
      awaitingReset := false
      te := ⟨.ending, .recvByte, .rom, c &&& 0x7F, 7, 0, .recv, s.te.cur, c.getLsbD 7⟩
      env := { s.env with lineHist := List.replicate s.cfg.inLatency true } }
    quietInputs

/-- The bytes of an instruction placed where the next step takes it; bytes that spell none leave `s` as it is. -/
def State.placeBytes (s : State) : List Byte → State
  | [c] => s.placeRomCommand c
  | [data, op] => if op.toNat < 8 then s.placeRequest (op.setWidth 3) data else s
  | _ => s

end Sys2Proof.Machine
end

