-- ==== Sys2Proof/Machine/ResetPresence.lean ====
section
/-! DEFINITION. The reset/presence state machine and interrupt signalling (43_reset_presence.md rules R200 to R216), one
definition for each state, and the interrupt hook (45_device_interface.md rule R268). -/

namespace Sys2Proof.Machine

/-- The start of a reset measurement from IDLE (R201, R202). -/
def State.startMeasure (k : Nat) (n : State) : State := n.enterMeasure k false

/-- A tick of IDLE without an edge or a wake: the class-2 pulse, or the wait goes on (R208, R216). -/
def idleQuiet (s n : State) : State := if s.class2Pending then n.enterIntPulse else n

/-- One tick of IDLE awake (R201). -/
def idleAwake (s n : State) : State :=
  if s.edgeFall then n.startMeasure n.cfg.tResetDeadline else idleQuiet s n

/-- One tick of IDLE asleep: only `wake` counts, and a wake with the line high is EXTERNALLY_INTERRUPTED (R202, R203). -/
def idleAsleep (s n : State) : State :=
  if s.inp.wake then
    if s.lineS then n.raiseFault .externallyInterrupted
    else n.startMeasure (n.cfg.tResetDeadline - n.cfg.tWakeComp)
  else idleQuiet s n

/-- One tick of IDLE. -/
def idleTick (s n : State) : State := if s.cfg.hasSleep then idleAsleep s n else idleAwake s n

/-- `W(u)`, the width of the reset so far (R204, R139). -/
def State.resetWidth (s : State) : Int := (s.cfg.tResetDeadline : Int) - s.dlRemaining

/-- The reset ends: PRESENCE_WAIT (R204). -/
def State.endReset (n : State) : State :=
  State.dlStop { n with st := .presenceWait, dly := n.cfg.tPdh, rstQualified := false }

/-- Stretch entry at width `w` (R206). -/
def State.enterStretch (w : Int) (n : State) : State :=
  { n with st := .intStretch, dly := ((n.cfg.tIntStretch : Int) - w).toNat, intClass := 0, rstQualified := true }

/-- One tick of RESET_MEASURE: line high, then stretch, then timeout (R204, R205, R206). -/
def resetMeasureTick (s n : State) : State :=
  if s.lineS then
    if s.rstQualified = true ∨ (s.cfg.tResetMin : Int) ≤ s.resetWidth then n.endReset
    else n.raiseFault .resetTooShort
  else if s.class1Pending = true ∧ s.rstQualified = false ∧ (s.cfg.tResetMin : Int) ≤ s.resetWidth then
    n.enterStretch s.resetWidth
  else if s.dlRemaining < 0 then n.raiseFault .shortPulseTimeout
  else n

/-- The end of INT_STRETCH: `rst_qualified` stays as it is (R207). -/
def State.endStretch (n : State) : State := n.enterMeasure n.cfg.tResetDeadline n.rstQualified

/-- One tick of INT_STRETCH (R207). -/
def intStretchTick (s n : State) : State := delayTick s n State.endStretch

/-- The end of INT_PULSE (R209). -/
def State.endPulse (n : State) : State := n.enterMeasure n.cfg.tResetDeadline true

/-- One tick of INT_PULSE (R209). -/
def intPulseTick (s n : State) : State := delayTick s n State.endPulse

/-- The end of PRESENCE_WAIT (R210). -/
def State.startPresence (n : State) : State := { n with st := .presenceLow, dly := n.cfg.tPdl }

/-- One tick of PRESENCE_WAIT (R210). -/
def presenceWaitTick (s n : State) : State := delayTick s n State.startPresence

/-- The end of PRESENCE_LOW: the command byte is received next (R212). -/
def State.startCommand (n : State) : State := State.teBegin .recvByte 0 .rom { n with st := .romCmd }

/-- One tick of PRESENCE_LOW (R211). The line is not read back (R213). -/
def presenceLowTick (s n : State) : State := delayTick s n State.startCommand

/-- One tick of IRQ_HOOK (R268). -/
def irqHookTick (s n : State) : State := if s.inp.irqAck then n.leaveIrqHook else n

end Sys2Proof.Machine
end

