-- ==== Sys2Proof/Machine/TimeSlot.lean ====
section
/-! DEFINITION. The time-slot synchronizer (41_time_slot.md rules R150 to R159) and the sequencing of the slots of an
operation (42_bit_byte.md rule R179). -/

namespace Sys2Proof.Machine

/-- The slot's falling edge in START: the window closes, the slot bound starts, and the slot's action begins (R151). -/
def slotStart (n : State) : State :=
  let m := { n with intArmed := false }
  let m := if m.cfg.slotEndBounded then m.dlStart m.cfg.tSlotLowMax else m.dlStop
  match m.te.dir, m.te.cur with
  | .recv, _ => { m with te := { m.te with phase := .act }, dly := m.cfg.tSample }
  | .send, false => { m with te := { m.te with phase := .act }, dly := m.cfg.tW0Low }
  | .send, true => { m with te := { m.te with phase := .ending } }

/-- The class-2 interrupt pulse from START: the transfer is abandoned (R156, 90_conflicts.md C19). -/
def pulseFromStart (n : State) : State := n.abortTransfer.dlStop.enterIntPulse

/-- One tick of START: edge, then interrupt pulse, then timeout (R151, R157). -/
def startTick (s n : State) : State :=
  if s.edgeFall then slotStart n
  else if s.class2Pending then pulseFromStart n
  else if s.dlRemaining < 0 then n.raiseFault .timeSlotTimeout
  else n

/-- The end of ACT: a receive slot samples the line (R152). -/
def actEnd (s n : State) : State :=
  { n with te := { n.te with phase := .ending, d := if n.te.dir = .recv then s.lineS else n.te.d } }

/-- One tick of ACT (R152). -/
def actTick (s n : State) : State := delayTick s n (actEnd s)

/-- What a completed slot leads to (R179). -/
inductive SlotResult where
  /-- The operation goes on with its next slot. -/
  | more (n : State)
  /-- The operation is done with this status and data. -/
  | done (status : Status) (data : Byte) (n : State)
deriving DecidableEq, Repr

/-- Slot completion of the three search slots of a bit (R179, R177, R178). -/
def completeSearch (n : State) : SlotResult :=
  if n.te.tri.toNat < 2 then .more (n.nextSlot n.te.cnt (n.te.tri + 1))
  else if n.te.d ≠ bitOf n.te.sr n.te.cnt then .done .mismatch (zextIndex n.te.cnt) n.teDone
  else if n.te.op = .searchBit ∨ n.te.cnt = 7 then
    .done .ok (if n.te.op = .searchByte then n.te.sr else 0) n.teDone
  else .more (n.nextSlot (n.te.cnt + 1) 0)

/-- Slot completion (R179): the result, or the next slot of the operation. -/
def completeSlot (n : State) : SlotResult :=
  match n.te.op with
  | .recvBit => .done .ok (zextBit n.te.d) n.teDone
  | .sendBit => .done .ok 0 n.teDone
  | .recvByte =>
    let sr := setBitOf n.te.sr n.te.cnt n.te.d
    let m := { n with te := { n.te with sr := sr } }
    if n.te.cnt = 7 then .done .ok sr m.teDone else .more (m.nextSlot (n.te.cnt + 1) n.te.tri)
  | .sendByte =>
    if n.te.cnt = 7 then .done .ok 0 n.teDone else .more (n.nextSlot (n.te.cnt + 1) n.te.tri)
  | .searchBit => completeSearch n
  | .searchByte => completeSearch n

end Sys2Proof.Machine
end

