-- ==== Sys2Proof/Machine/Engine.lean ====
section
/-! DEFINITION. One tick of the block: the transfer engine, the rule of the engine state (60_exceptions.md rule R302), and
the request of the device layer beside it. -/

namespace Sys2Proof.Machine

open Host (Outcome)

/-- Delivery of a completed slot's outcome (R180): the next slot goes on, a device client is answered, and for client ROM
the ROM command acts in the same tick. -/
def deliver : SlotResult → Outcome State Fault Refusal
  | .more n => .next n
  | .done status data n =>
    match n.te.client with
    | .dev => .next (n.respond status data)
    | .rom => exec n.commandAt n

/-- One tick of END: the slot is complete at a high line; else the bound, where there is one (R153, R154, R157). -/
def endingTick (s n : State) : Outcome State Fault Refusal :=
  if s.lineS then deliver (completeSlot n)
  else if s.cfg.slotEndBounded = true ∧ s.dlRemaining < 0 then .next (n.raiseFault .slotOverlongPulse)
  else .next n

/-- One tick of the transfer engine (R150). -/
def teTick (s n : State) : Outcome State Fault Refusal :=
  match s.te.phase with
  | .idle => .next n
  | .start => .next (startTick s n)
  | .act => .next (actTick s n)
  | .ending => endingTick s n

/-- One tick of DEVICE: with the transfer engine idle the engine looks only at `dev_end` (R265, R270); else the operation
goes on. -/
def deviceTick (s n : State) : Outcome State Fault Refusal :=
  if s.te.phase = .idle then .next (if s.inp.devEnd then n.endSession else n) else teTick s n

/-- The rule of the engine state at this tick (R302). -/
def engineTick (s n : State) : Outcome State Fault Refusal :=
  match s.st with
  | .idle => .next (idleTick s n)
  | .resetMeasure => .next (resetMeasureTick s n)
  | .intStretch => .next (intStretchTick s n)
  | .intPulse => .next (intPulseTick s n)
  | .presenceWait => .next (presenceWaitTick s n)
  | .presenceLow => .next (presenceLowTick s n)
  | .romCmd => teTick s n
  | .romExec => teTick s n
  | .device => deviceTick s n
  | .irqHook => .next (irqHookTick s n)
  | .unused k => .refused (.unreachableState k)

/-- The request of this tick, if there is one, acts as its instruction (R261 to R264). -/
def requestTick (s n : State) : Outcome State Fault Refusal :=
  match s.requested with
  | none => .next n
  | some i => exec i n

/-- A tick without block reset. The request is answered first: it writes only the response registers unless it is
accepted, and at the tick it is accepted no other rule writes the transfer engine (notes/assumptions/11.md). -/
def runTick (s : State) : Outcome State Fault Refusal :=
  andThen (requestTick s s.beginTick) fun n =>
  andThen (engineTick s n) fun m =>
  .next (s.endTick m)

/-- One tick. A configuration that breaks R12 is refused; block reset has priority over every other event (R310); a state
code that no transition reaches is refused (R31). -/
def tick (s : State) : Outcome State Fault Refusal :=
  if s.cfg.valid then
    if s.inp.rstN then runTick s else .next s.blockReset
  else .refused .badConfiguration

end Sys2Proof.Machine
end

