-- ==== Sys2Proof/Safety.lean ====
section
/-! DEFINITION. What the statements are made of: the invariant of the block's registers, the transition table of
60_exceptions.md rule R302, and runs of several ticks. -/

namespace Sys2Proof.Machine

/-- The engine states in which the transfer engine runs (R302, the rows marked te). -/
def EngineState.runsTe (x : EngineState) : Bool :=
  decide (x = .romCmd) || decide (x = .romExec) || decide (x = .device)

/-- The engine states that wait out a delay (R207, R209, R210, R211). -/
def EngineState.delays (x : EngineState) : Bool :=
  decide (x = .intStretch) || decide (x = .intPulse) || decide (x = .presenceWait) || decide (x = .presenceLow)

/-- The transfer operation a command in ROM_EXEC has in progress (R231 to R237), none for a command that never enters it. -/
def romExecOp (i : Instr) (step : RomStep) : Option TransferOp :=
  match i with
  | .searchRom => some .searchByte
  | .condSearch => some .searchByte
  | .readRom => some .sendByte
  | .readRom0F => some .sendByte
  | .matchRom => some .recvByte
  | .writeRom =>
    match step with
    | .rx => some .recvByte
    | .tx => some .sendByte
  | _ => none

/-- What holds of the registers at every tick of a run. -/
structure Inv (s : State) : Prop where
  /-- The configuration has a meaning (R12). -/
  valid : s.cfg.valid = true
  /-- `st` is one of its ten values (R31). -/
  used : s.st.used = true
  /-- The identity's last byte is the CRC8 of the first seven (R33). -/
  crc : s.id[7] = crc8 (firstSeven s.id)
  /-- `awaiting_reset` is 1 exactly in IDLE and IRQ_HOOK (R34). -/
  awaiting : s.awaitingReset = true ↔ s.st = .idle ∨ s.st = .irqHook
  /-- `int_class` never holds 3 (R37). -/
  cls : s.intClass ≠ 3
  /-- `int_armed` is 1 exactly in START (R38). -/
  armed : s.intArmed = true ↔ s.te.phase = .start
  /-- The deadline counter is a signed number of `DL_WIDTH` bits (R40). -/
  dlRange : s.cfg.dlMin ≤ s.dl.count ∧ s.dl.count < ((2 ^ (s.cfg.dlWidth - 1) : Nat) : Int)
  /-- A disarmed timer holds -1 (R138). -/
  dlOff : s.dl.armed = false → s.dl.count = -1
  /-- The timer is disarmed in IDLE, PRESENCE_WAIT, IRQ_HOOK and in DEVICE with the transfer engine idle (R138). -/
  dlStopped : s.st = .idle ∨ s.st = .presenceWait ∨ s.st = .irqHook ∨ s.sessionIdle = true → s.dl.armed = false
  /-- A reset measurement has its deadline armed and leaves at the latest at the first elapsed tick (R204, R205). -/
  measuring : s.st = .resetMeasure → s.dl.armed = true ∧ -1 ≤ s.dl.count
  /-- A delay in progress has at least one tick left (R135, R304). -/
  delaying : s.st.delays = true ∨ s.te.phase = .act → 1 ≤ s.dly
  /-- The transfer engine runs only in ROM_CMD, ROM_EXEC and DEVICE (R302). -/
  teRuns : s.te.phase ≠ .idle → s.st.runsTe = true
  /-- It always runs in ROM_CMD and ROM_EXEC (R302). -/
  teBusy : s.st = .romCmd ∨ s.st = .romExec → s.te.phase ≠ .idle
  /-- Its client is the device layer exactly in a session (R212, R231, R261). -/
  client : s.te.phase ≠ .idle → (s.te.client = .dev ↔ s.st = .device)
  /-- `te_tri` is 0 to 2 (R44), and 0 but in a search (R170). -/
  tri : s.te.tri.toNat ≤ 2 ∧ (s.te.op ≠ .searchBit → s.te.op ≠ .searchByte → s.te.tri = 0)
  /-- A bit operation has bit index 0 (R170, R179). -/
  bitIndex : s.te.op = .recvBit ∨ s.te.op = .sendBit ∨ s.te.op = .searchBit → s.te.cnt = 0
  /-- ROM_CMD receives one byte (R212). -/
  romCmdOp : s.st = .romCmd → s.te.op = .recvByte
  /-- ROM_EXEC runs the transfers of the command in `rom_cmd` (R231). -/
  romExec : s.st = .romExec → romExecOp (decodeRomCmd s.cfg s.rom.cmd) s.rom.step = some s.te.op
  /-- `rst_qualified` is 1 only while a reset is measured or stretched (R215). -/
  qualified : s.rstQualified = true → s.st = .resetMeasure ∨ s.st = .intStretch
  /-- `xrsp_status` and `xrsp_data` are 0 outside a response (R48). -/
  response : s.rsp.valid = false → s.rsp.status = .ok ∧ s.rsp.data = 0

/-- The rows of R302 whose condition fixes the target. -/
def fixedRow (s : State) (x : EngineState) : Prop :=
  (s.inp.rstN = false ∧ x = .idle) ∨
  (s.inp.rstN = true ∧
    ((s.st = .idle ∧ s.cfg.hasSleep = false ∧ s.edgeFall = true ∧ x = .resetMeasure) ∨
     (s.st = .idle ∧ s.cfg.hasSleep = true ∧ s.inp.wake = true ∧ s.lineS = false ∧ x = .resetMeasure) ∨
     (s.st = .idle ∧ s.cfg.hasSleep = true ∧ s.inp.wake = true ∧ s.lineS = true ∧ x = .irqHook) ∨
     (s.st = .idle ∧ s.cfg.hasSleep = false ∧ s.edgeFall = false ∧ s.class2Pending = true ∧ x = .intPulse) ∨
     (s.st = .idle ∧ s.cfg.hasSleep = true ∧ s.inp.wake = false ∧ s.class2Pending = true ∧ x = .intPulse) ∨
     (s.st = .resetMeasure ∧ s.lineS = true ∧
        (s.rstQualified = true ∨ (s.cfg.tResetMin : Int) ≤ (s.cfg.tResetDeadline : Int) - s.dlRemaining) ∧
        x = .presenceWait) ∨
     (s.st = .resetMeasure ∧ s.lineS = true ∧ s.rstQualified = false ∧
        (s.cfg.tResetDeadline : Int) - s.dlRemaining < (s.cfg.tResetMin : Int) ∧ x = .idle) ∨
     (s.st = .resetMeasure ∧ s.lineS = false ∧ s.class1Pending = true ∧ s.rstQualified = false ∧
        (s.cfg.tResetMin : Int) ≤ (s.cfg.tResetDeadline : Int) - s.dlRemaining ∧ x = .intStretch) ∨
     (s.st = .resetMeasure ∧ s.lineS = false ∧ s.dlRemaining < 0 ∧
        ¬(s.class1Pending = true ∧ s.rstQualified = false ∧
          (s.cfg.tResetMin : Int) ≤ (s.cfg.tResetDeadline : Int) - s.dlRemaining) ∧ x = .idle) ∨
     (s.st = .intStretch ∧ s.dly = 1 ∧ x = .resetMeasure) ∨
     (s.st = .intPulse ∧ s.dly = 1 ∧ x = .resetMeasure) ∨
     (s.st = .presenceWait ∧ s.dly = 1 ∧ x = .presenceLow) ∨
     (s.st = .presenceLow ∧ s.dly = 1 ∧ x = .romCmd) ∨
     (s.st = .device ∧ s.te.phase = .idle ∧ s.inp.devEnd = true ∧ x = .idle) ∨
     (s.st = .irqHook ∧ s.inp.irqAck = true ∧ x = .idle) ∨
     (s.st.runsTe = true ∧ s.te.phase = .start ∧ s.edgeFall = false ∧ s.class2Pending = true ∧ x = .intPulse) ∨
     (s.st.runsTe = true ∧ s.te.phase = .start ∧ s.edgeFall = false ∧ s.class2Pending = false ∧ s.dlRemaining < 0 ∧
        x = .idle) ∨
     (s.st.runsTe = true ∧ s.te.phase = .ending ∧ s.lineS = false ∧ s.cfg.slotEndBounded = true ∧
        s.dlRemaining < 0 ∧ x = .resetMeasure)))

/-- A slot that ends its operation completes at this tick: the last slot of the byte, or a search mismatch (R179). -/
def opCompletes (s : State) : Prop :=
  s.te.phase = .ending ∧ s.lineS = true ∧
    match s.te.op with
    | .recvBit => True
    | .sendBit => True
    | .recvByte => s.te.cnt = 7
    | .sendByte => s.te.cnt = 7
    | .searchBit => 2 ≤ s.te.tri.toNat
    | .searchByte => 2 ≤ s.te.tri.toNat ∧ (s.te.cnt = 7 ∨ s.te.d ≠ bitOf s.te.sr s.te.cnt)

/-- The transfer that completes at this tick in ROM_EXEC is the command's last: that of its last byte (WRITE_ROM's last is
the last byte of its echo), or a search byte that ends in a mismatch (R232 to R237). -/
def lastOfCommand (s : State) : Prop :=
  (s.rom.idx = 7 ∧ (decodeRomCmd s.cfg s.rom.cmd = .writeRom → s.rom.step = .tx)) ∨
    (s.te.op = .searchByte ∧ s.te.d ≠ bitOf s.te.sr s.te.cnt)

/-- The two rows of R302 whose target the ROM command chooses. -/
def commandRow (s : State) (x : EngineState) : Prop :=
  s.inp.rstN = true ∧ opCompletes s ∧
    ((s.st = .romCmd ∧ (x = .romExec ∨ x = .device ∨ x = .idle)) ∨
      (s.st = .romExec ∧ lastOfCommand s ∧ (x = .device ∨ x = .idle)))

/-! ### What a tick writes into -/

/-- The timer after `dl_stop` (R138). -/
def dlStopped : Deadline := ⟨-1, false⟩

/-- The timer after `dl_start(T_SLOT_WAIT)` (R136, R151). -/
def slotWait (cfg : Config) : Deadline := ⟨(cfg.tSlotWait : Int) - 1, true⟩

/-- The timer after the slot's falling edge (R151). -/
def slotBound (cfg : Config) : Deadline := if cfg.slotEndBounded then ⟨(cfg.tSlotLowMax : Int) - 1, true⟩ else dlStopped

/-- The transfer engine in START of an operation that has just begun and sends bit 0 of `v` first (R170). -/
def beginsSending (op : TransferOp) (client : Client) (v : Byte) : TransferEngine :=
  ⟨.start, op, client, v, 0, 0, .send, v.getLsbD 0, false⟩

/-- The transfer engine in START of an operation that has just begun and receives; `te_cur` stays as it was (R170). -/
def beginsReceiving (op : TransferOp) (client : Client) (cur : Bool) : TransferEngine :=
  ⟨.start, op, client, 0, 0, 0, .recv, cur, false⟩

/-- The state a tick's rule writes into when the tick accepts no request: a request outside a session is answered
REFUSED, one while the transfer engine is busy is ignored (R263 (a), R264). -/
def State.base (s : State) : State :=
  if s.inp.xreqValid = true ∧ s.st ≠ .device then s.beginTick.respond .refused 0 else s.beginTick

/-- `te_sr` when the slot in END completes: a received byte gets its bit (R179). -/
def State.completedSr (s : State) : Byte :=
  if s.te.op = .recvByte then setBitOf s.te.sr s.te.cnt s.te.d else s.te.sr

/-- The state in which a completed operation's result is delivered (R179, R180). -/
def State.finished (s : State) : State :=
  { s.base with te := { s.te with phase := .idle, sr := s.completedSr }, dl := dlStopped }

/-- The response registers after a stopped operation: ABORTED for a device client (R266). -/
def State.abortedRsp (s : State) : Response := if s.te.client = .dev then ⟨true, .aborted, 0⟩ else s.base.rsp

/-- The fault the rules raise at this tick, if any (R280, R292). -/
def State.raised (s : State) : Option FaultKind :=
  if s.st = .idle ∧ s.cfg.hasSleep = true ∧ s.inp.wake = true ∧ s.lineS = true then some .externallyInterrupted
  else if s.st = .resetMeasure ∧ s.lineS = true ∧ s.rstQualified = false ∧
      (s.cfg.tResetDeadline : Int) - s.dlRemaining < (s.cfg.tResetMin : Int) then some .resetTooShort
  else if s.st = .resetMeasure ∧ s.lineS = false ∧ s.dlRemaining < 0 ∧
      ¬(s.class1Pending = true ∧ s.rstQualified = false ∧
        (s.cfg.tResetMin : Int) ≤ (s.cfg.tResetDeadline : Int) - s.dlRemaining) then some .shortPulseTimeout
  else if s.st.runsTe = true ∧ s.te.phase = .start ∧ s.edgeFall = false ∧ s.class2Pending = false ∧
      s.dlRemaining < 0 then some .timeSlotTimeout
  else if s.st.runsTe = true ∧ s.te.phase = .ending ∧ s.lineS = false ∧ s.cfg.slotEndBounded = true ∧
      s.dlRemaining < 0 then some .slotOverlongPulse
  else none

/-! ### ROM commands across their transfers -/

/-- A transfer of ROM_EXEC for the command `i` completes at this tick (R180, R231). -/
def romTransferDone (i : Instr) (s : State) : Prop :=
  s.st = .romExec ∧ s.te.client = .rom ∧ opCompletes s ∧ decodeRomCmd s.cfg s.rom.cmd = i

/-- The eight received bytes with this tick's as the last one (R234, R236). -/
def State.receivedBytes (s : State) : ByteFile := setByteAt s.rom.rxb 7 s.completedSr

/-- MATCH ROM selects this device at this tick (R234). -/
def matchSelects (s : State) : Prop := romTransferDone .matchRom s ∧ s.rom.idx = 7 ∧ s.receivedBytes = s.id

/-- WRITE ROM accepts a new identity at this tick (R236). -/
def writeRomAccepts (s : State) : Prop :=
  romTransferDone .writeRom s ∧ s.rom.step = .rx ∧ s.rom.idx = 7 ∧
    s.receivedBytes[0] = s.id[0] ∧ s.receivedBytes[7] = crc8 (firstSeven s.receivedBytes)

/-- The command `i` from the completion of its first data transfer on, each transfer completing with the next of these
bytes in `te_sr`. -/
def feedRom (i : Instr) : List Byte → State → Host.Outcome State Fault Refusal
  | [], s => .next s
  | b :: bs, s => andThen (exec i (State.teDone { s with te := { s.te with sr := b } })) (feedRom i bs)

/-- The command `i` from its dispatch on. -/
def runRom (i : Instr) (bs : List Byte) (s : State) : Host.Outcome State Fault Refusal := andThen (exec i s) (feedRom i bs)

/-! ### An operation across its slots -/

/-- The bit a slot in START is going to send, none when it receives. -/
def slotSends (n : State) : Option Bool :=
  match n.te.dir with
  | .recv => none
  | .send => some n.te.cur

/-- The slots of an operation with these bits on the line at their samples (a send slot samples nothing): what each slot
sends, and the result (R179). -/
def runSlots : List Bool → State → List (Option Bool) × SlotResult
  | [], n => ([], .more n)
  | b :: bs, n =>
    match completeSlot { n with te := { n.te with d := if n.te.dir = .recv then b else n.te.d } } with
    | .more m => (slotSends n :: (runSlots bs m).1, (runSlots bs m).2)
    | .done x r m => ([slotSends n], .done x r m)

/-- The bits of a byte, bit 0 first (R82). -/
def bitsOf (v : Byte) : List Bool := (List.range 8).map fun k => v.getLsbD k

/-! ### Runs -/

/-- `t` is the state `k` ticks after `s`. -/
def After (s : State) (k : Nat) (t : State) : Prop := Host.Core.run Sys2Proof.core k s = .next t

/-- No block reset is asserted in the `k` ticks from `s` on. -/
def NoReset (s : State) (k : Nat) : Prop := ∀ j, j < k → (s.inputAt j).rstN = true

/-- The master holds the line low for the `w` ticks from this one on and releases it at tick `w`; no block reset up to
tick `k`. -/
def LowFor (s : State) (w k : Nat) : Prop :=
  ∀ j, j ≤ k → (s.inputAt j).rstN = true ∧ (s.inputAt j).extLow = decide (j < w)

/-- The bus is released by every other agent and no condition is written, for the `k` ticks from this one on. -/
def BusQuiet (s : State) (k : Nat) : Prop :=
  ∀ j, j < k → (s.inputAt j).rstN = true ∧ (s.inputAt j).extLow = false ∧ (s.inputAt j).condValid = false

end Sys2Proof.Machine
end

