-- ==== Sys2Proof/Certificates/Slice0/Obligations.lean ====
section
/-! DEFINITION. The statements for the provers. The numbers O1, O2, … are those of OBLIGATIONS.json. -/

open Sys2Proof Sys2Proof.Machine

/-! ### Encodings -/

/-- O1. Decoding the bytes of an instruction that exists under the configuration gives it back. The two-byte form of a
request is the model's choice (notes/assumptions/12.md). -/
def Obligations.DecodeEncodeAgree : Prop :=
  ∀ (cfg : Config) (i : Instr), i.wf cfg = true → decode cfg (encode i) = .ok i

/-- O2. What the decoder accepts is the encoding of the instruction it answers, which exists under the configuration;
what it rejects is the encoding of no such instruction. The two-byte form is the model's choice (notes/assumptions/12.md).
-/
def Obligations.EncodeDecodeAgree : Prop :=
  ∀ (cfg : Config) (bs : List Byte),
    (∀ i, decode cfg bs = .ok i → encode i = bs ∧ i.wf cfg = true) ∧
    (∀ e, decode cfg bs = .error e → ∀ i, i.wf cfg = true → encode i ≠ bs)

/-- O3. The ROM command codes of R101, and UNRECOGNIZED for every byte that is none of the eight. -/
def Obligations.RomCommandBytes : Prop :=
  ∀ (cfg : Config),
    decode cfg [0xF0] = .ok .searchRom ∧
    decode cfg [0x33] = .ok .readRom ∧
    decode cfg [0x0F] = .ok .readRom0F ∧
    decode cfg [0x55] = .ok .matchRom ∧
    decode cfg [0xCC] = .ok .skipRom ∧
    (cfg.hasWriteRom = true → decode cfg [0xD5] = .ok .writeRom) ∧
    (cfg.hasCondSearch = true → decode cfg [0xEC] = .ok .condSearch) ∧
    decode cfg [0xA5] = .ok .resume ∧
    ∀ c : Byte, c ≠ 0xF0 → c ≠ 0x33 → c ≠ 0x0F → c ≠ 0x55 → c ≠ 0xCC → c ≠ 0xD5 → c ≠ 0xEC → c ≠ 0xA5 →
      decode cfg [c] = .ok (.unrecognized c)

/-- O4. R102: an optional command whose option is off decodes as UNRECOGNIZED; UNRECOGNIZED is exactly the bytes that no
enabled row equals. -/
def Obligations.OptionalRomCommandsOff : Prop :=
  ∀ (cfg : Config),
    (cfg.hasWriteRom = false → decode cfg [0xD5] = .ok (.unrecognized 0xD5)) ∧
    (cfg.hasCondSearch = false → decode cfg [0xEC] = .ok (.unrecognized 0xEC)) ∧
    ∀ c : Byte, decode cfg [c] = .ok (.unrecognized c) ↔
      ¬(c = 0xF0 ∨ c = 0x33 ∨ c = 0x0F ∨ c = 0x55 ∨ c = 0xCC ∨ c = 0xA5 ∨
        (c = 0xD5 ∧ cfg.hasWriteRom = true) ∨ (c = 0xEC ∧ cfg.hasCondSearch = true))

/-- O5. The transfer opcodes of R105 on the word of R104, with the operand kept as it is written. The bytes' order is
the model's choice (notes/assumptions/12.md). -/
def Obligations.TransferOpcodes : Prop :=
  ∀ (cfg : Config) (data : Byte),
    decode cfg [data, 0] = .ok (.recvBit data) ∧
    (data.getLsbD 0 = false → decode cfg [data, 1] = .ok (.sendBit0 (data.extractLsb' 1 7))) ∧
    (data.getLsbD 0 = true → decode cfg [data, 1] = .ok (.sendBit1 (data.extractLsb' 1 7))) ∧
    decode cfg [data, 2] = .ok (.recvByte data) ∧
    decode cfg [data, 3] = .ok (.sendByte data) ∧
    decode cfg [data, 4] = .ok (.searchBit data) ∧
    decode cfg [data, 5] = .ok (.searchByte data) ∧
    decode cfg [data, 6] = .ok (.reserved6 data) ∧
    decode cfg [data, 7] = .ok (.reserved7 data)

/-- O6. Words written out from the spec's encodings decode to the instructions they stand for. -/
def Obligations.WrittenWordsDecode : Prop :=
  decodeTableWord 8 0b11110000 = some .searchRom ∧
  decodeTableWord 8 0b01010101 = some .matchRom ∧
  decodeTableWord 8 0b10100101 = some .resume ∧
  decodeTableWord 8 0b00000000 = some (.unrecognized 0) ∧
  decodeTableWord 16 0b00000001_00000110 = some (.sendBit0 3) ∧
  decodeTableWord 16 0b00000011_00111010 = some (.sendByte 0x3A) ∧
  decodeTableWord 16 0b00000101_11100110 = some (.searchByte 0xE6) ∧
  decodeTableWord 16 0b00000110_00000000 = some (.reserved6 0)

/-! ### A step runs the decoded instruction -/

/-- O7. A tick with a request runs the instruction its word spells, then the rule of the engine state, then the end of the
tick; in an idle session that is not ended, the engine's rule does nothing. Which step an instruction is, is DEDUCED
(notes/assumptions/1.md, 11.md). -/
def Obligations.StepRunsTheRequest : Prop :=
  ∀ (s : State) (i : Instr), s.cfg.valid = true → s.inp.rstN = true → s.inp.xreqValid = true →
    decode s.cfg [s.inp.xreqData, s.inp.xreqOp.setWidth 8] = .ok i →
    (step s = andThen (exec i s.beginTick) fun n => andThen (engineTick s n) fun m => .next (s.endTick m)) ∧
    (∀ n, s.st = .device → s.te.phase = .idle → s.inp.devEnd = false → exec i s.beginTick = .next n →
      step s = .next (s.endTick n))

/-- O8. A tick at which a transfer of client ROM completes runs the ROM command in the same tick: in ROM_CMD the one the
received byte spells, in ROM_EXEC the one in `rom_cmd`. Which step an instruction is, is DEDUCED
(notes/assumptions/1.md). -/
def Obligations.StepRunsTheRomCommand : Prop :=
  ∀ (s : State) (i : Instr) (n : State), s.cfg.valid = true → s.inp.rstN = true → s.te.client = .rom → opCompletes s →
    ((s.st = .romCmd ∧ decode s.cfg [s.completedSr] = .ok i) ∨ (s.st = .romExec ∧ decode s.cfg [s.rom.cmd] = .ok i)) →
    exec i s.finished = .next n → step s = .next (s.endTick n)

/-! ### Requests, at the tick they are presented -/

/-- O9. RECV_BIT and RECV_BYTE in an idle session begin, whatever their operand, and change nothing else. -/
def Obligations.ReceiveRequestsBegin : Prop :=
  ∀ (s : State) (data : Byte), s.st = .device → s.te.phase = .idle → s.inp.devEnd = false →
    exec (.recvBit data) s =
      .next { s with te := beginsReceiving .recvBit .dev s.te.cur, intArmed := true, dl := slotWait s.cfg } ∧
    exec (.recvByte data) s =
      .next { s with te := beginsReceiving .recvByte .dev s.te.cur, intArmed := true, dl := slotWait s.cfg }

/-- O10. SEND_BIT of a 0 and of a 1 and SEND_BYTE in an idle session begin and change nothing else; SEND_BIT ignores the
seven upper bits of its operand. -/
def Obligations.SendRequestsBegin : Prop :=
  ∀ (s : State) (rest : BitVec 7) (data : Byte), s.st = .device → s.te.phase = .idle → s.inp.devEnd = false →
    exec (.sendBit0 rest) s =
      .next { s with te := beginsSending .sendBit .dev 0, intArmed := true, dl := slotWait s.cfg } ∧
    exec (.sendBit1 rest) s =
      .next { s with te := beginsSending .sendBit .dev 1, intArmed := true, dl := slotWait s.cfg } ∧
    exec (.sendByte data) s =
      .next { s with te := beginsSending .sendByte .dev data, intArmed := true, dl := slotWait s.cfg }

/-- O11. SEARCH_BIT and SEARCH_BYTE in an idle session begin and change nothing else; SEARCH_BIT takes bit 0 alone. -/
def Obligations.SearchRequestsBegin : Prop :=
  ∀ (s : State) (data : Byte), s.st = .device → s.te.phase = .idle → s.inp.devEnd = false →
    exec (.searchBit data) s =
      .next { s with
        te := beginsSending .searchBit .dev (if data.getLsbD 0 then 1 else 0), intArmed := true, dl := slotWait s.cfg } ∧
    exec (.searchByte data) s =
      .next { s with te := beginsSending .searchByte .dev data, intArmed := true, dl := slotWait s.cfg }

/-- O12. RESERVED_6 and RESERVED_7 are answered REFUSED with data 0 and change nothing else, unless the transfer engine is
busy in a session, which ignores them; they are exactly the opcodes that spell no operation. -/
def Obligations.ReservedRequestsRefused : Prop :=
  (∀ (s : State) (data : Byte), ¬(s.st = .device ∧ s.te.phase ≠ .idle) →
    exec (.reserved6 data) s = .next { s with rsp := ⟨true, .refused, 0⟩ } ∧
    exec (.reserved7 data) s = .next { s with rsp := ⟨true, .refused, 0⟩ }) ∧
  ∀ (op : BitVec 3) (data : Byte), (decodeXreq op data).transfer = none ↔ op = 6 ∨ op = 7

/-- O13. R263: in its three cases a request gets the answer REFUSED at the next tick, and the tick does nothing else that it
would not do without the request. -/
def Obligations.RequestsRefused : Prop :=
  ∀ (s : State), Inv s → s.inp.rstN = true → s.inp.xreqValid = true →
    (s.st ≠ .device ∨
      (s.st = .device ∧ s.te.phase = .idle ∧ (s.inp.xreqOp = 6 ∨ s.inp.xreqOp = 7)) ∨
      (s.st = .device ∧ s.te.phase = .idle ∧ s.inp.devEnd = true)) →
    ∃ t, step (s.withInputs { s.inp with xreqValid := false }) = .next t ∧
      step s = .next { t with rsp := ⟨true, .refused, 0⟩ }

/-- O14. R264: a request while the transfer engine is busy is ignored. -/
def Obligations.BusyRequestsIgnored : Prop :=
  ∀ (s : State), s.st = .device → s.te.phase ≠ .idle → s.inp.xreqValid = true →
    step s = step (s.withInputs { s.inp with xreqValid := false })

/-! ### ROM commands, at the completion tick of the command byte -/

/-- O15. The commands that decide at once: SKIP_ROM selects; RESUME selects when eligible and keeps eligibility;
COND_SEARCH without an alarm and UNRECOGNIZED end not selected. Nothing else changes. -/
def Obligations.ImmediateRomCommands : Prop :=
  ∀ (s : State),
    exec .skipRom s =
      .next { s with
        st := .device, rom := { s.rom with cmd := 0xCC, idx := 0 }, resumeEligible := false,
        te := { s.te with phase := .idle }, dl := dlStopped } ∧
    (s.resumeEligible = true → exec .resume s =
      .next { s with
        st := .device, rom := { s.rom with cmd := 0xA5, idx := 0 },
        te := { s.te with phase := .idle }, dl := dlStopped }) ∧
    (s.resumeEligible = false → exec .resume s =
      .next { s with
        st := .idle, awaitingReset := true, rom := { s.rom with cmd := 0xA5, idx := 0 },
        te := { s.te with phase := .idle }, dl := dlStopped }) ∧
    (s.st ≠ .romExec → s.alarmAsserted = false → exec .condSearch s =
      .next { s with
        st := .idle, awaitingReset := true, rom := { s.rom with cmd := 0xEC, idx := 0 }, resumeEligible := false,
        te := { s.te with phase := .idle }, dl := dlStopped }) ∧
    ∀ c : Byte, c ≠ 0xA5 → exec (.unrecognized c) s =
      .next { s with
        st := .idle, awaitingReset := true, rom := { s.rom with cmd := c, idx := 0 }, resumeEligible := false,
        te := { s.te with phase := .idle }, dl := dlStopped }

/-- O16. The commands that answer with the identity: SEARCH_ROM, COND_SEARCH with an alarm, READ_ROM under both codes enter
ROM_EXEC with the transfer of `id[0]`. Nothing else changes. -/
def Obligations.SearchAndReadRomBegin : Prop :=
  ∀ (s : State), s.st ≠ .romExec →
    exec .searchRom s =
      .next { s with
        st := .romExec, rom := { s.rom with cmd := 0xF0, idx := 0 }, resumeEligible := false,
        te := beginsSending .searchByte .rom s.id[0], intArmed := true, dl := slotWait s.cfg } ∧
    (s.alarmAsserted = true → exec .condSearch s =
      .next { s with
        st := .romExec, rom := { s.rom with cmd := 0xEC, idx := 0 }, resumeEligible := false,
        te := beginsSending .searchByte .rom s.id[0], intArmed := true, dl := slotWait s.cfg }) ∧
    exec .readRom s =
      .next { s with
        st := .romExec, rom := { s.rom with cmd := 0x33, idx := 0 }, resumeEligible := false,
        te := beginsSending .sendByte .rom s.id[0], intArmed := true, dl := slotWait s.cfg } ∧
    exec .readRom0F s =
      .next { s with
        st := .romExec, rom := { s.rom with cmd := 0x0F, idx := 0 }, resumeEligible := false,
        te := beginsSending .sendByte .rom s.id[0], intArmed := true, dl := slotWait s.cfg }

/-- O17. MATCH_ROM and WRITE_ROM enter ROM_EXEC receiving; WRITE_ROM starts in its receive half. Nothing else changes. -/
def Obligations.MatchAndWriteRomBegin : Prop :=
  ∀ (s : State), s.st ≠ .romExec →
    exec .matchRom s =
      .next { s with
        st := .romExec, rom := { s.rom with cmd := 0x55, idx := 0 }, resumeEligible := false,
        te := beginsReceiving .recvByte .rom s.te.cur, intArmed := true, dl := slotWait s.cfg } ∧
    exec .writeRom s =
      .next { s with
        st := .romExec, rom := { s.rom with cmd := 0xD5, idx := 0, step := .rx }, resumeEligible := false,
        te := beginsReceiving .recvByte .rom s.te.cur, intArmed := true, dl := slotWait s.cfg }

/-! ### ROM commands, at the completion tick of a data transfer -/

/-- O18. In ROM_EXEC, SEARCH_ROM and COND_SEARCH end not selected at a mismatch and after the last byte, and go on with the
next identity byte otherwise. Nothing else changes. -/
def Obligations.SearchContinues : Prop :=
  ∀ (s : State) (i : Instr), (i = .searchRom ∨ i = .condSearch) → s.st = .romExec →
    ((s.te.d ≠ bitOf s.te.sr s.te.cnt ∨ s.rom.idx = 7) → exec i s =
      .next { s with st := .idle, awaitingReset := true, te := { s.te with phase := .idle }, dl := dlStopped }) ∧
    (s.te.d = bitOf s.te.sr s.te.cnt → s.rom.idx ≠ 7 → exec i s =
      .next { s with
        rom := { s.rom with idx := s.rom.idx + 1 },
        te := beginsSending .searchByte .rom (byteAt s.id (s.rom.idx + 1)), intArmed := true, dl := slotWait s.cfg })

/-- O19. In ROM_EXEC, READ_ROM under both codes goes on with the next identity byte, and after the last one selects or not as
`READ_ROM_SELECTS` says. Nothing else changes. -/
def Obligations.ReadRomContinues : Prop :=
  ∀ (s : State) (i : Instr), (i = .readRom ∨ i = .readRom0F) → s.st = .romExec →
    (s.rom.idx ≠ 7 → exec i s =
      .next { s with
        rom := { s.rom with idx := s.rom.idx + 1 },
        te := beginsSending .sendByte .rom (byteAt s.id (s.rom.idx + 1)), intArmed := true, dl := slotWait s.cfg }) ∧
    (s.rom.idx = 7 → s.cfg.readRomSelects = true → exec i s =
      .next { s with st := .device, te := { s.te with phase := .idle }, dl := dlStopped }) ∧
    (s.rom.idx = 7 → s.cfg.readRomSelects = false → exec i s =
      .next { s with st := .idle, awaitingReset := true, te := { s.te with phase := .idle }, dl := dlStopped })

/-- O20. In ROM_EXEC, MATCH_ROM keeps each received byte; after the eighth it selects, marks resume eligibility and clears the
alarm if all eight equal the identity, else it ends not selected. Nothing else changes. -/
def Obligations.MatchRomContinues : Prop :=
  ∀ (s : State), s.st = .romExec →
    let kept : RomLayer := { s.rom with rxb := setByteAt s.rom.rxb s.rom.idx s.te.sr }
    (s.rom.idx ≠ 7 → exec .matchRom s =
      .next { s with
        rom := { kept with idx := s.rom.idx + 1 },
        te := beginsReceiving .recvByte .rom s.te.cur, intArmed := true, dl := slotWait s.cfg }) ∧
    (s.rom.idx = 7 → kept.rxb = s.id → exec .matchRom s =
      .next { s with
        st := .device, rom := kept, resumeEligible := true, alarmAsserted := false,
        te := { s.te with phase := .idle }, dl := dlStopped }) ∧
    (s.rom.idx = 7 → kept.rxb ≠ s.id → exec .matchRom s =
      .next { s with
        st := .idle, awaitingReset := true, rom := kept, te := { s.te with phase := .idle }, dl := dlStopped })

/-- O21. In ROM_EXEC, WRITE_ROM keeps each received byte; after the eighth it adopts the bytes and requests their
persistence if family and checksum are right, and in both cases echoes the resulting identity; after the echo it ends not
selected. Nothing else changes. -/
def Obligations.WriteRomContinues : Prop :=
  ∀ (s : State), s.st = .romExec →
    let a : ByteFile := setByteAt s.rom.rxb s.rom.idx s.te.sr
    (s.rom.step = .rx → s.rom.idx ≠ 7 → exec .writeRom s =
      .next { s with
        rom := { s.rom with rxb := a, idx := s.rom.idx + 1 },
        te := beginsReceiving .recvByte .rom s.te.cur, intArmed := true, dl := slotWait s.cfg }) ∧
    (s.rom.step = .rx → s.rom.idx = 7 → a[0] = s.id[0] → a[7] = crc8 (firstSeven a) → exec .writeRom s =
      .next { s with
        id := #v[s.id[0], a[1], a[2], a[3], a[4], a[5], a[6], a[7]],
        nv := ⟨true, a[6] ++ a[5] ++ a[4] ++ a[3] ++ a[2] ++ a[1]⟩,
        rom := { s.rom with rxb := a, step := .tx, idx := 0 },
        te := beginsSending .sendByte .rom s.id[0], intArmed := true, dl := slotWait s.cfg }) ∧
    (s.rom.step = .rx → s.rom.idx = 7 → ¬(a[0] = s.id[0] ∧ a[7] = crc8 (firstSeven a)) → exec .writeRom s =
      .next { s with
        rom := { s.rom with rxb := a, step := .tx, idx := 0 },
        te := beginsSending .sendByte .rom s.id[0], intArmed := true, dl := slotWait s.cfg }) ∧
    (s.rom.step = .tx → s.rom.idx ≠ 7 → exec .writeRom s =
      .next { s with
        rom := { s.rom with idx := s.rom.idx + 1 },
        te := beginsSending .sendByte .rom (byteAt s.id (s.rom.idx + 1)), intArmed := true, dl := slotWait s.cfg }) ∧
    (s.rom.step = .tx → s.rom.idx = 7 → exec .writeRom s =
      .next { s with st := .idle, awaitingReset := true, te := { s.te with phase := .idle }, dl := dlStopped })

/-! ### Whole ROM commands -/

/-- O22. READ_ROM, under both codes, sends the eight identity bytes in index order; then it selects or not as
`READ_ROM_SELECTS` says. -/
def Obligations.ReadRomSendsIdentity : Prop :=
  ∀ (s : State) (i : Instr), (i = .readRom ∨ i = .readRom0F) → s.st ≠ .romExec →
    (∀ k : Fin 8, ∃ t, runRom i (List.replicate k.val 0) s = .next t ∧
      t.st = .romExec ∧ t.te = beginsSending .sendByte .rom s.id[k] ∧ t.id = s.id) ∧
    ∃ t, runRom i (List.replicate 8 0) s = .next t ∧ t.id = s.id ∧ t.resumeEligible = false ∧
      t.st = if s.cfg.readRomSelects then .device else .idle

/-- O23. MATCH_ROM selects this device exactly when the eight bytes sent are its identity, bit for bit. -/
def Obligations.MatchRomSelectsExactly : Prop :=
  ∀ (s : State) (a : ByteFile), s.st ≠ .romExec →
    ∃ t, runRom .matchRom a.toList s = .next t ∧ t.id = s.id ∧ t.rom.rxb = a ∧
      (t.st = .device ↔ a = s.id) ∧ (t.st = .idle ↔ a ≠ s.id) ∧
      t.resumeEligible = decide (a = s.id) ∧ t.alarmAsserted = (s.alarmAsserted && !decide (a = s.id)) ∧
      t.intClass = s.intClass

/-- O24. WRITE_ROM with eight bytes: the identity becomes these bytes if their family is this device's and their checksum
is right, else it stays; the persist request says which; the echo sends the resulting identity in order; and the command
ends not selected. -/
def Obligations.WriteRomAdoptsAndEchoes : Prop :=
  ∀ (s : State) (a : ByteFile), s.st ≠ .romExec →
    ∃ t : State,
      (t.id = if a[0] = s.id[0] ∧ a[7] = crc8 (firstSeven a) then a else s.id) ∧
      (t.nv = if a[0] = s.id[0] ∧ a[7] = crc8 (firstSeven a) then ⟨true, packSerial a⟩ else s.nv) ∧
      runRom .writeRom a.toList s = .next t ∧
      (∀ k : Fin 8, ∃ u, runRom .writeRom (a.toList ++ List.replicate k.val 0) s = .next u ∧
        u.te = beginsSending .sendByte .rom t.id[k] ∧ u.st = .romExec ∧ u.id = t.id) ∧
      ∃ v, runRom .writeRom (a.toList ++ List.replicate 8 0) s = .next v ∧
        v.st = .idle ∧ v.awaitingReset = true ∧ v.id = t.id ∧ v.resumeEligible = false

/-! ### The registers the ROM commands own -/

/-- O25. Without block reset, a tick changes the identity exactly when WRITE ROM accepts at it: the identity becomes the
received bytes, all at that tick, and the persist request is driven for the next tick, with the transfer engine in START, so
that no request follows it at once; at every other tick the identity stays and no request is made. -/
def Obligations.IdentityAndPersistWrites : Prop :=
  ∀ (s t : State), s.inp.rstN = true → step s = .next t →
    (writeRomAccepts s →
      t.id = s.receivedBytes ∧ t.nv = ⟨true, packSerial s.receivedBytes⟩ ∧ t.te.phase = .start) ∧
    (¬writeRomAccepts s → t.id = s.id ∧ t.nv.valid = false) ∧
    (s.te.phase = .start → t.nv.valid = false)

/-- O26. Without block reset, `resume_eligible` is written at two kinds of tick only: cleared when a ROM command byte other
than 0xA5 completes, set when MATCH ROM selects. -/
def Obligations.ResumeEligibleWrites : Prop :=
  ∀ (s t : State), Inv s → s.inp.rstN = true → step s = .next t →
    (s.st = .romCmd → opCompletes s → s.completedSr ≠ 0xA5 → t.resumeEligible = false) ∧
    (matchSelects s → t.resumeEligible = true) ∧
    (¬(s.st = .romCmd ∧ opCompletes s ∧ s.completedSr ≠ 0xA5) → ¬matchSelects s →
      t.resumeEligible = s.resumeEligible)

/-! ### One tick of a slot -/

/-- O27. The slot's falling edge in START: the window closes, the slot bound starts when it is configured, and the slot's
action begins. Nothing else changes but what every tick changes. -/
def Obligations.SlotStartsAtEdge : Prop :=
  ∀ (s : State), s.cfg.valid = true → s.inp.rstN = true → s.st.runsTe = true → s.te.phase = .start →
    s.edgeFall = true →
    (s.te.dir = .recv → step s = .next (s.endTick { s.base with
      te := { s.te with phase := .act }, dly := s.cfg.tSample, intArmed := false, dl := slotBound s.cfg })) ∧
    (s.te.dir = .send → s.te.cur = false → step s = .next (s.endTick { s.base with
      te := { s.te with phase := .act }, dly := s.cfg.tW0Low, intArmed := false, dl := slotBound s.cfg })) ∧
    (s.te.dir = .send → s.te.cur = true → step s = .next (s.endTick { s.base with
      te := { s.te with phase := .ending }, intArmed := false, dl := slotBound s.cfg }))

/-- O28. START without an edge: the class-2 interrupt pulse, then TIME_SLOT_TIMEOUT, then the wait goes on. -/
def Obligations.StartWithoutEdge : Prop :=
  ∀ (s : State), s.cfg.valid = true → s.inp.rstN = true → s.st.runsTe = true → s.te.phase = .start →
    s.edgeFall = false →
    ((s.cfg.hasInterruptSignal = true ∧ s.intClass = 2) → step s = .next (s.endTick { s.base with
      st := .intPulse, dly := s.cfg.tIntPulse, intClass := 0, awaitingReset := false,
      te := { s.te with phase := .idle }, intArmed := false, dl := dlStopped, rsp := s.abortedRsp })) ∧
    (¬(s.cfg.hasInterruptSignal = true ∧ s.intClass = 2) → s.dlRemaining < 0 → step s = .next (s.endTick { s.base with
      faultCode := .timeSlotTimeout, st := .idle, awaitingReset := true, rstQualified := false,
      te := { s.te with phase := .idle }, intArmed := false, dl := dlStopped, rsp := s.abortedRsp })) ∧
    (¬(s.cfg.hasInterruptSignal = true ∧ s.intClass = 2) → 0 ≤ s.dlRemaining → step s = .next (s.endTick s.base))

/-- O29. ACT counts its delay down; at its last tick the phase becomes END and a receive slot samples the line. -/
def Obligations.ActPhase : Prop :=
  ∀ (s : State), s.cfg.valid = true → s.inp.rstN = true → s.st.runsTe = true → s.te.phase = .act →
    (s.dly ≠ 1 → step s = .next (s.endTick { s.base with dly := s.dly - 1 })) ∧
    (s.dly = 1 → s.te.dir = .recv → step s = .next (s.endTick { s.base with
      te := { s.te with phase := .ending, d := s.lineS } })) ∧
    (s.dly = 1 → s.te.dir = .send → step s = .next (s.endTick { s.base with
      te := { s.te with phase := .ending } }))

/-- O30. END at a low line: unbounded, the wait goes on; bounded, SLOT_OVERLONG_PULSE once the bound has elapsed, with the
recovery to RESET_MEASURE and its shortened deadline. -/
def Obligations.EndPhaseAtLowLine : Prop :=
  ∀ (s : State), s.cfg.valid = true → s.inp.rstN = true → s.st.runsTe = true → s.te.phase = .ending →
    s.lineS = false →
    (s.cfg.slotEndBounded = false → step s = .next (s.endTick s.base)) ∧
    (s.cfg.slotEndBounded = true → 0 ≤ s.dlRemaining → step s = .next (s.endTick s.base)) ∧
    (s.cfg.slotEndBounded = true → s.dlRemaining < 0 → step s = .next (s.endTick { s.base with
      faultCode := .slotOverlongPulse, st := .resetMeasure, awaitingReset := false, rstQualified := false,
      dl := ⟨(s.cfg.tResetDeadline : Int) - s.cfg.tSlotLowMax - 2, true⟩,
      te := { s.te with phase := .idle }, intArmed := false, rsp := s.abortedRsp }))

/-! ### Slot completion -/

/-- O31. The completion of a device-layer operation: its response at the next tick, the transfer engine idle, the session
open. -/
def Obligations.DeviceOperationsComplete : Prop :=
  ∀ (s : State), s.cfg.valid = true → s.inp.rstN = true → s.st = .device → s.te.client = .dev →
    s.te.phase = .ending → s.lineS = true →
    let answers (status : Status) (data : Byte) : Prop :=
      step s = .next (s.endTick { s.finished with rsp := ⟨true, status, data⟩ })
    (s.te.op = .recvBit → answers .ok (if s.te.d then 1 else 0)) ∧
    (s.te.op = .sendBit → answers .ok 0) ∧
    (s.te.op = .recvByte → s.te.cnt = 7 → answers .ok (setBitOf s.te.sr 7 s.te.d)) ∧
    (s.te.op = .sendByte → s.te.cnt = 7 → answers .ok 0) ∧
    ((s.te.op = .searchBit ∨ s.te.op = .searchByte) → s.te.tri = 2 → s.te.d ≠ bitOf s.te.sr s.te.cnt →
      answers .mismatch (s.te.cnt.setWidth 8)) ∧
    (s.te.op = .searchBit → s.te.tri = 2 → s.te.d = bitOf s.te.sr s.te.cnt → answers .ok 0) ∧
    (s.te.op = .searchByte → s.te.tri = 2 → s.te.cnt = 7 → s.te.d = bitOf s.te.sr s.te.cnt → answers .ok s.te.sr)

/-- O32. The completion of a slot that does not end its operation: the next slot's START at the next tick, for both clients.
-/
def Obligations.OperationsGoOn : Prop :=
  ∀ (s : State), s.cfg.valid = true → s.inp.rstN = true → s.st.runsTe = true → s.te.phase = .ending →
    s.lineS = true →
    let goesOn (te : TransferEngine) : Prop :=
      step s = .next (s.endTick { s.base with te := te, intArmed := true, dl := slotWait s.cfg })
    (s.te.op = .recvByte → s.te.cnt ≠ 7 → goesOn { s.te with
      phase := .start, sr := setBitOf s.te.sr s.te.cnt s.te.d, cnt := s.te.cnt + 1, dir := .recv }) ∧
    (s.te.op = .sendByte → s.te.cnt ≠ 7 → goesOn { s.te with
      phase := .start, cnt := s.te.cnt + 1, dir := .send, cur := bitOf s.te.sr (s.te.cnt + 1) }) ∧
    ((s.te.op = .searchBit ∨ s.te.op = .searchByte) → s.te.tri = 0 → goesOn { s.te with
      phase := .start, tri := 1, dir := .send, cur := !bitOf s.te.sr s.te.cnt }) ∧
    ((s.te.op = .searchBit ∨ s.te.op = .searchByte) → s.te.tri = 1 → goesOn { s.te with
      phase := .start, tri := 2, dir := .recv }) ∧
    (s.te.op = .searchByte → s.te.tri = 2 → s.te.cnt ≠ 7 → s.te.d = bitOf s.te.sr s.te.cnt → goesOn { s.te with
      phase := .start, cnt := s.te.cnt + 1, tri := 0, dir := .send, cur := bitOf s.te.sr (s.te.cnt + 1) })

/-- O33. Bytes go least significant bit first: eight receive slots that sample the bits of `v` in order give `v`; the eight
slots of SEND_BYTE send the bits of `v` in order. -/
def Obligations.BytesGoLsbFirst : Prop :=
  ∀ (v data : Byte) (client : Client) (n : State),
    (∃ m, runSlots (bitsOf v) (n.teBegin .recvByte data client) = (List.replicate 8 none, .done .ok v m)) ∧
    (∃ m, runSlots (List.replicate 8 false) (n.teBegin .sendByte v client) = ((bitsOf v).map some, .done .ok 0 m))

/-- O34. SEARCH_BYTE of `v` against the master's directions `w`: each triplet sends the bit, then its complement, then
receives; the operation stops with MISMATCH and the index of the first differing bit, or ends OK with `v`. -/
def Obligations.SearchByteResult : Prop :=
  ∀ (v w : Byte) (client : Client) (n : State),
    let triplets : List Bool := (bitsOf w).flatMap fun b => [false, false, b]
    let sends : List (Option Bool) := (bitsOf v).flatMap fun b => [some b, some (!b), none]
    (v = w → ∃ m, runSlots triplets (n.teBegin .searchByte v client) = (sends, .done .ok v m)) ∧
    ∀ k : BitVec 3, (∀ j : BitVec 3, j < k → bitOf v j = bitOf w j) → bitOf v k ≠ bitOf w k →
      ∃ m, runSlots triplets (n.teBegin .searchByte v client) =
        (sends.take (3 * (k.toNat + 1)), .done .mismatch (k.setWidth 8) m)

/-! ### Whole slots, tick by tick -/

/-- O35. A receive slot whose low lasts `w` ticks from its falling edge: the engine never drives the line, samples it
`T_SAMPLE` ticks after the edge, and the slot completes at the first high tick after the sample. -/
def Obligations.ReceiveSlotRun : Prop :=
  ∀ (s : State) (w : Nat), Inv s → s.cfg.inLatency = 0 → s.te.phase = .start → s.te.dir = .recv → s.prevS = true →
    1 ≤ w → (s.cfg.slotEndBounded = true → w ≤ s.cfg.tSlotLowMax + 1) →
    LowFor s w (max (s.cfg.tSample + 1) w) →
    (∃ u, After s (max (s.cfg.tSample + 1) w) u ∧ u.st = s.st ∧ u.lineS = true ∧ u.faultCode = s.faultCode ∧
      u.te = { s.te with phase := .ending, d := decide (w ≤ s.cfg.tSample) }) ∧
    ∀ k, 1 ≤ k → k ≤ max (s.cfg.tSample + 1) w → ∃ v, After s k v ∧ v.owDrive = false ∧
      v.te.phase = if k ≤ s.cfg.tSample then .act else .ending

/-- O36. A send slot whose master low lasts `w` ticks from its falling edge: a 0 drives the line for exactly the `T_W0LOW`
ticks after the edge and completes at the first high tick after them; a 1 never drives it and completes when the master
releases. -/
def Obligations.SendSlotRuns : Prop :=
  ∀ (s : State) (w : Nat), Inv s → s.cfg.inLatency = 0 → s.te.phase = .start → s.te.dir = .send → s.prevS = true →
    1 ≤ w → (s.cfg.slotEndBounded = true → w ≤ s.cfg.tSlotLowMax + 1) →
    let last := if s.te.cur then w else max (s.cfg.tW0Low + 1) w
    LowFor s w last →
    (∃ u, After s last u ∧ u.st = s.st ∧ u.lineS = true ∧ u.faultCode = s.faultCode ∧
      u.te = { s.te with phase := .ending }) ∧
    ∀ k, 1 ≤ k → k ≤ last → ∃ v, After s k v ∧ v.owDrive = (!s.te.cur && decide (k ≤ s.cfg.tW0Low))

/-- O37. A master low that outlasts the slot bound is taken as a reset: SLOT_OVERLONG_PULSE at the tick after the bound, in
every kind of slot, with the width counted from the slot's falling edge. -/
def Obligations.OverlongSlotMeasured : Prop :=
  ∀ (s : State) (w : Nat), Inv s → s.cfg.inLatency = 0 → s.te.phase = .start → s.prevS = true →
    s.cfg.slotEndBounded = true → s.cfg.tSlotLowMax + 2 ≤ w →
    LowFor s w (s.cfg.tSlotLowMax + 1) →
    ∃ u, After s (s.cfg.tSlotLowMax + 2) u ∧ u.st = .resetMeasure ∧ u.faultCode = .slotOverlongPulse ∧
      u.te.phase = .idle ∧ u.awaitingReset = false ∧ u.rstQualified = false ∧
      u.resetWidth = (s.cfg.tSlotLowMax : Int) + 2 ∧ (s.te.client = .dev → u.rsp = ⟨true, .aborted, 0⟩)

/-- O38. From a slot's first START tick on a silent bus with no class-2 signal pending: the engine waits `T_SLOT_WAIT` ticks
more and raises TIME_SLOT_TIMEOUT at the tick after them. -/
def Obligations.SlotWaitBound : Prop :=
  ∀ (s : State), Inv s → s.cfg.inLatency = 0 → s.te.phase = .start → s.dl = slotWait s.cfg → s.intClass ≠ 2 →
    BusQuiet s (s.cfg.tSlotWait + 1) →
    (∀ k, k ≤ s.cfg.tSlotWait → ∃ v, After s k v ∧ v.st = s.st ∧ v.te = s.te ∧ v.faultCode = s.faultCode) ∧
    ∃ u, After s (s.cfg.tSlotWait + 1) u ∧ u.st = .idle ∧ u.faultCode = .timeSlotTimeout ∧ u.te.phase = .idle ∧
      u.intArmed = false ∧ u.awaitingReset = true ∧ (s.te.client = .dev → u.rsp = ⟨true, .aborted, 0⟩)

/-! ### Reset and presence, one tick -/

/-- O39. A tick of IDLE: a falling edge when awake; a wake when asleep, a reset if the line is low and
EXTERNALLY_INTERRUPTED if it is high; then the class-2 pulse; else the wait goes on. -/
def Obligations.IdleTick : Prop :=
  ∀ (s : State), Inv s → s.inp.rstN = true → s.st = .idle →
    let woken : Prop := if s.cfg.hasSleep = true then s.inp.wake = true else s.edgeFall = true
    let pulse : Prop := s.cfg.hasInterruptSignal = true ∧ s.intClass = 2
    (s.cfg.hasSleep = false → woken → step s = .next (s.endTick { s.base with
      st := .resetMeasure, awaitingReset := false, rstQualified := false,
      dl := ⟨(s.cfg.tResetDeadline : Int) - 1, true⟩ })) ∧
    (s.cfg.hasSleep = true → woken → s.lineS = false → step s = .next (s.endTick { s.base with
      st := .resetMeasure, awaitingReset := false, rstQualified := false,
      dl := ⟨(s.cfg.tResetDeadline : Int) - s.cfg.tWakeComp - 1, true⟩ })) ∧
    (s.cfg.hasSleep = true → woken → s.lineS = true → step s = .next (s.endTick { s.base with
      faultCode := .externallyInterrupted, st := .irqHook, dl := dlStopped })) ∧
    (¬woken → pulse → step s = .next (s.endTick { s.base with
      st := .intPulse, dly := s.cfg.tIntPulse, intClass := 0, awaitingReset := false })) ∧
    (¬woken → ¬pulse → step s = .next (s.endTick s.base))

/-- O40. A tick of RESET_MEASURE at width `W`: the line high ends the reset or is RESET_TOO_SHORT; then the class-1 stretch;
then SHORT_PULSE_TIMEOUT; else the measurement goes on. -/
def Obligations.ResetMeasureTick : Prop :=
  ∀ (s : State), Inv s → s.inp.rstN = true → s.st = .resetMeasure →
    let W : Int := (s.cfg.tResetDeadline : Int) - s.dlRemaining
    let stretch : Prop :=
      s.cfg.hasInterruptSignal = true ∧ s.intClass = 1 ∧ s.rstQualified = false ∧ (s.cfg.tResetMin : Int) ≤ W
    (s.lineS = true → (s.rstQualified = true ∨ (s.cfg.tResetMin : Int) ≤ W) → step s = .next (s.endTick { s.base with
      st := .presenceWait, dly := s.cfg.tPdh, rstQualified := false, dl := dlStopped })) ∧
    (s.lineS = true → ¬(s.rstQualified = true ∨ (s.cfg.tResetMin : Int) ≤ W) → step s = .next (s.endTick { s.base with
      faultCode := .resetTooShort, st := .idle, awaitingReset := true, rstQualified := false, dl := dlStopped })) ∧
    (s.lineS = false → stretch → step s = .next (s.endTick { s.base with
      st := .intStretch, dly := ((s.cfg.tIntStretch : Int) - W).toNat, intClass := 0, rstQualified := true })) ∧
    (s.lineS = false → ¬stretch → s.dlRemaining < 0 → step s = .next (s.endTick { s.base with
      faultCode := .shortPulseTimeout, st := .idle, awaitingReset := true, rstQualified := false, dl := dlStopped })) ∧
    (s.lineS = false → ¬stretch → 0 ≤ s.dlRemaining → step s = .next (s.endTick s.base))

/-- O41. A tick of a waiting state: the delay counts down; at 1 the state's exit is taken. Both exits into
RESET_MEASURE clear `awaiting_reset`, as R34 says (DEDUCED, notes/assumptions/14.md). -/
def Obligations.DelayStates : Prop :=
  ∀ (s : State), s.cfg.valid = true → s.inp.rstN = true →
    (s.st.delays = true → s.dly ≠ 1 → step s = .next (s.endTick { s.base with dly := s.dly - 1 })) ∧
    (s.st = .intStretch → s.dly = 1 → step s = .next (s.endTick { s.base with
      st := .resetMeasure, awaitingReset := false, dl := ⟨(s.cfg.tResetDeadline : Int) - 1, true⟩ })) ∧
    (s.st = .intPulse → s.dly = 1 → step s = .next (s.endTick { s.base with
      st := .resetMeasure, awaitingReset := false, dl := ⟨(s.cfg.tResetDeadline : Int) - 1, true⟩,
      rstQualified := true })) ∧
    (s.st = .presenceWait → s.dly = 1 → step s = .next (s.endTick { s.base with
      st := .presenceLow, dly := s.cfg.tPdl })) ∧
    (s.st = .presenceLow → s.dly = 1 → step s = .next (s.endTick { s.base with
      st := .romCmd, te := beginsReceiving .recvByte .rom s.te.cur, intArmed := true, dl := slotWait s.cfg }))

/-! ### Reset and presence, tick by tick -/

/-- O42. A reset low of `w` ticks from IDLE, no interrupt signal requested: below `T_RESET_MIN` it is RESET_TOO_SHORT, up to
`T_RESET_DEADLINE` + 1 it is answered, beyond that it is SHORT_PULSE_TIMEOUT at the tick the deadline has elapsed. -/
def Obligations.ResetAnsweredExactly : Prop :=
  ∀ (s : State) (w : Nat), Inv s → s.cfg.inLatency = 0 → s.cfg.hasSleep = false → s.st = .idle → s.prevS = true →
    s.intClass = 0 → 1 ≤ w → LowFor s w (min w (s.cfg.tResetDeadline + 1)) →
    (∀ j, j ≤ min w (s.cfg.tResetDeadline + 1) → (s.inputAt j).condValid = false) →
    (w < s.cfg.tResetMin → ∃ u, After s (w + 1) u ∧ u.st = .idle ∧ u.faultCode = .resetTooShort ∧
      u.awaitingReset = true) ∧
    (s.cfg.tResetMin ≤ w → w ≤ s.cfg.tResetDeadline + 1 → ∃ u, After s (w + 1) u ∧ u.st = .presenceWait ∧
      u.dly = s.cfg.tPdh ∧ u.faultCode = s.faultCode) ∧
    (s.cfg.tResetDeadline + 2 ≤ w → ∃ u, After s (s.cfg.tResetDeadline + 2) u ∧ u.st = .idle ∧
      u.faultCode = .shortPulseTimeout ∧ u.awaitingReset = true)

/-- O43. From the first tick of PRESENCE_WAIT: the bus is released for `T_PDH` ticks, driven low for exactly `T_PDL` ticks,
and the next tick is the first START tick of the command byte, whatever happens on the line. -/
def Obligations.PresencePulse : Prop :=
  ∀ (s : State), Inv s → s.st = .presenceWait → s.dly = s.cfg.tPdh → NoReset s (s.cfg.tPdh + s.cfg.tPdl) →
    (∀ k, k < s.cfg.tPdh + s.cfg.tPdl → ∃ v, After s k v ∧ v.owDrive = decide (s.cfg.tPdh ≤ k) ∧
      v.st = if k < s.cfg.tPdh then .presenceWait else .presenceLow) ∧
    ∃ u, After s (s.cfg.tPdh + s.cfg.tPdl) u ∧ u.st = .romCmd ∧ u.owDrive = false ∧
      u.te = beginsReceiving .recvByte .rom s.te.cur ∧ u.dl = slotWait s.cfg ∧ u.intArmed = true

/-- O44. INT_STRETCH and INT_PULSE drive the line low for exactly the ticks of their delay, then measure again with a new
deadline; a self-initiated pulse qualifies its reset. -/
def Obligations.InterruptSignalLasts : Prop :=
  ∀ (s : State), Inv s → (s.st = .intStretch ∨ s.st = .intPulse) → NoReset s s.dly →
    (∀ k, k < s.dly → ∃ v, After s k v ∧ v.st = s.st ∧ v.owDrive = true ∧ v.dly = s.dly - k) ∧
    ∃ u, After s s.dly u ∧ u.st = .resetMeasure ∧ u.owDrive = false ∧ u.awaitingReset = false ∧
      u.dl = ⟨(s.cfg.tResetDeadline : Int) - 1, true⟩ ∧
      u.rstQualified = (s.rstQualified || decide (s.st = .intPulse))

/-- O45. The deadline timer after `k` ticks: an armed one has counted down `k`, saturating at the most negative value; after
`dl_start(N)` it is `N - k` at the k-th tick; a disarmed one stays at -1 and reads as elapsed. The counter is an integer
in the model (notes/assumptions/9.md). -/
def Obligations.DeadlineTimer : Prop :=
  ∀ (cfg : Config) (k : Nat),
    (∀ c : Int, cfg.dlMin ≤ c → (dlCount cfg)^[k] ⟨c, true⟩ = ⟨max cfg.dlMin (c - k), true⟩) ∧
    (∀ (N : Nat) (n : State), n.cfg = cfg → 1 ≤ k → cfg.dlMin ≤ (N : Int) - k →
      ((dlCount cfg)^[k - 1] (n.dlStart N).dl) = ⟨(N : Int) - k, true⟩) ∧
    (∀ n : State, ((dlCount cfg)^[k] n.dlStop.dl) = ⟨-1, false⟩ ∧ n.dlStop.dlRemaining = -1)

/-! ### Faults -/

/-- O46. Taking a fault: the code, the stopped transfer with ABORTED for a device client, and the fault's one destination;
every other register keeps its value. The entry of IRQ_HOOK writes `awaiting_reset` as R34 says
(DEDUCED, notes/assumptions/14.md). -/
def Obligations.FaultEntry : Prop :=
  ∀ (n : State),
    let stopped : State :=
      if n.te.phase = .idle then n
      else { n with
        te := { n.te with phase := .idle }, intArmed := false,
        rsp := if n.te.client = .dev then ⟨true, .aborted, 0⟩ else n.rsp }
    (∀ f : FaultKind, (f = .timeSlotTimeout ∨ f = .resetTooShort ∨ f = .shortPulseTimeout ∨ f = .presenceCheckFailed) →
      n.raiseFault f = { stopped with
        faultCode := f.code, st := .idle, dl := dlStopped, awaitingReset := true, rstQualified := false }) ∧
    n.raiseFault .slotOverlongPulse = { stopped with
      faultCode := .slotOverlongPulse, st := .resetMeasure, awaitingReset := false, rstQualified := false,
      dl := ⟨((n.cfg.tResetDeadline - n.cfg.tSlotLowMax - 1 : Nat) : Int) - 1, true⟩ } ∧
    n.raiseFault .externallyInterrupted = { stopped with
      faultCode := .externallyInterrupted, st := .irqHook, dl := dlStopped, awaitingReset := true }

/-- O47. Without block reset, `fault_code` is written exactly at the ticks at which a rule raises a fault, with that fault's
code, and never with PRESENCE_CHECK_FAILED or the reserved code. -/
def Obligations.FaultCodeWrites : Prop :=
  ∀ (s t : State), s.inp.rstN = true → step s = .next t →
    t.faultCode = (match s.raised with | some f => f.code | none => s.faultCode) ∧
    s.raised ≠ some .presenceCheckFailed

/-- O48. `fault_code` is never read: two states that differ in it alone step to states that differ in it alone, and show
the same at the ports. -/
def Obligations.FaultCodeNeverRead : Prop :=
  ∀ (s t : State) (f : FaultCode), step s = .next t →
    ∃ g, step { s with faultCode := f } = .next { t with faultCode := g } ∧ (g = f ∨ g = t.faultCode) ∧
      ({ s with faultCode := f } : State).outputs = s.outputs

/-! ### The device layer and the platform -/

/-- O49. R265: `dev_end` in an idle session ends it, and a request in the same tick is REFUSED; `dev_end` while the transfer
engine is busy or outside DEVICE is ignored. -/
def Obligations.DevEnd : Prop :=
  ∀ (s : State), s.cfg.valid = true → s.inp.rstN = true → s.inp.devEnd = true →
    (s.st = .device → s.te.phase = .idle → step s = .next (s.endTick { s.beginTick with
      st := .idle, awaitingReset := true, dl := dlStopped,
      rsp := if s.inp.xreqValid then ⟨true, .refused, 0⟩ else ⟨false, .ok, 0⟩ })) ∧
    (¬(s.st = .device ∧ s.te.phase = .idle) → step s = step (s.withInputs { s.inp with devEnd := false }))

/-- O50. IRQ_HOOK waits for `irq_ack` and then returns to IDLE; the line is not looked at, and `irq_ack` outside IRQ_HOOK is
ignored. -/
def Obligations.IrqHook : Prop :=
  ∀ (s : State), Inv s → s.inp.rstN = true →
    (s.st = .irqHook → s.irqReq = true ∧
      (s.inp.irqAck = true → step s = .next (s.endTick { s.base with st := .idle })) ∧
      (s.inp.irqAck = false → step s = .next (s.endTick s.base))) ∧
    (s.st ≠ .irqHook → s.irqReq = false ∧ step s = step (s.withInputs { s.inp with irqAck := false }))

/-- O51. `wake` is ignored but in IDLE with `HAS_SLEEP`; an idle session without a request or `dev_end` waits; and in
IRQ_HOOK and in an idle session, whatever is asked there, the tick does not depend on the line, now or remembered, but for
the sample it keeps and the line it remembers. -/
def Obligations.InputsIgnored : Prop :=
  ∀ (s : State), s.cfg.valid = true → s.inp.rstN = true →
    (¬(s.st = .idle ∧ s.cfg.hasSleep = true) → step s = step (s.withInputs { s.inp with wake := false })) ∧
    (s.st = .device → s.te.phase = .idle → s.inp.xreqValid = false → s.inp.devEnd = false →
      step s = .next (s.endTick s.beginTick)) ∧
    ((s.st = .irqHook ∨ (s.st = .device ∧ s.te.phase = .idle)) → ∀ (b : Bool) (hist : List Bool),
      ∃ t u, step s = .next t ∧
        step { s with env := ⟨{ s.inp with extLow := b } :: s.env.script.tail, s.env.tick, hist⟩ } = .next u ∧
        u = { t with prevS := u.prevS, env := u.env })

/-- O52. R267: `set_condition` writes both fields in every state, wins over the engine's writes of the tick, leaves the class
at a class of 3, and changes nothing else. -/
def Obligations.SetConditionWins : Prop :=
  ∀ (s t : State), s.inp.rstN = true → s.inp.condValid = true →
    step (s.withInputs { s.inp with condValid := false }) = .next t →
    step s = .next { t with
      alarmAsserted := s.inp.condAlarm, intClass := if s.inp.condClass = 3 then t.intClass else s.inp.condClass }

/-- O53. Block reset: whatever the state and the other inputs, every register takes its reset value, the identity comes from
the ports with its checksum computed, and the outputs take their reset values; the first tick after it sees no edge and,
without `HAS_SLEEP`, stays in IDLE, and the next one sees an edge only if the line was high at the first. -/
def Obligations.BlockReset : Prop :=
  ∀ (s : State), s.cfg.valid = true → s.inp.rstN = false →
    ∃ t, step s = .next t ∧
      t.st = .idle ∧ t.id[0] = s.inp.initFamily ∧
      (∀ k : Fin 6, t.id[k.val + 1] = s.inp.initSerial.extractLsb' (8 * k.val) 8) ∧
      t.id[7] = crc8 (firstSeven t.id) ∧ t.awaitingReset = true ∧
      t.resumeEligible = false ∧ t.alarmAsserted = false ∧ t.intClass = 0 ∧ t.intArmed = false ∧
      t.faultCode = .noFault ∧ t.dl = ⟨-1, false⟩ ∧ t.dly = 0 ∧ t.prevS = false ∧
      t.te = ⟨.idle, .recvBit, .rom, 0, 0, 0, .recv, false, false⟩ ∧
      t.rom = ⟨0, 0, .rx, #v[0, 0, 0, 0, 0, 0, 0, 0]⟩ ∧ t.rstQualified = false ∧
      t.outputs = ⟨false, false, ⟨false, .ok, 0⟩, false, s.cfg.hasSleep, ⟨false, 0⟩, true, false⟩ ∧
      t.edgeFall = false ∧
      ∀ u, t.inp.rstN = true → step t = .next u →
        (s.cfg.hasSleep = false → u.st = .idle) ∧ (u.edgeFall = true → t.lineS = true)

/-! ### The machine as a whole -/

/-- O54. Every step keeps the invariant. -/
def Obligations.InvKept : Prop :=
  ∀ (s t : State), Inv s → step s = .next t → Inv t

/-- O55. The invariant holds right after block reset, at any valid configuration and identity, and so at the reset state of
the model, whose configuration and identity are the model's choice (notes/assumptions/3.md, 4.md). -/
def Obligations.InvAtReset : Prop :=
  Inv State.reset ∧
  ∀ (cfg : Config) (family : Byte) (serial : BitVec 48) (env : Environment), cfg.valid = true →
    Inv (State.afterReset cfg family serial env)

/-- O56. R302: the engine state is left only by a row of the transition table, every row whose condition fixes the target is
taken, and where a ROM command chooses among targets (at the command byte, or at the command's last byte or search
mismatch) one of the row's targets is taken. -/
def Obligations.TransitionTable : Prop :=
  ∀ (s t : State), Inv s → step s = .next t →
    (t.st ≠ s.st → fixedRow s t.st ∨ commandRow s t.st) ∧
    (∀ x, fixedRow s x → t.st = x) ∧
    ∀ x, commandRow s x → commandRow s t.st

/-- O57. No step ends in a fault; a step is refused exactly for a configuration that breaks one of the ten constraints of R12
and, without block reset, for an engine state that no transition reaches (notes/assumptions/7.md); every other step answers a
next state, which keeps the configuration, the sample of the tick and, block reset or not, the line remembered outside the
block (the model's choices, notes/assumptions/3.md and 13.md). -/
def Obligations.StepOutcomes : Prop :=
  ∀ (s : State),
    let c := s.cfg
    let meets : Prop :=
      (1 ≤ c.tSample ∧ c.tSample < c.tSlotLowMax) ∧
      (1 ≤ c.tW0Low ∧ c.tW0Low + c.inLatency < c.tSlotLowMax) ∧
      (1 ≤ c.tResetMin ∧ c.tResetMin ≤ c.tResetDeadline) ∧
      c.tResetDeadline + 2 ≤ c.tIntStretch ∧
      c.tResetMin ≤ c.tIntPulse ∧
      c.tSlotLowMax < c.tResetDeadline ∧
      (1 ≤ c.tPdh ∧ 1 ≤ c.tPdl) ∧
      1 ≤ c.tSlotWait ∧
      c.tWakeComp < c.tResetDeadline ∧
      ∀ d ∈ [c.tSlotWait, c.tResetDeadline, c.tIntStretch, c.tIntPulse], d < 2 ^ (c.dlWidth - 1) - 1
    (∀ r, step s ≠ .fault r) ∧
    (step s = .refused .badConfiguration ↔ ¬meets) ∧
    (∀ k, step s = .refused (.unreachableState k) ↔ meets ∧ s.inp.rstN = true ∧ s.st = .unused k) ∧
    ((∃ t, step s = .next t) ↔ meets ∧ (s.inp.rstN = false ∨ ∀ k, s.st ≠ .unused k)) ∧
    ∀ t, step s = .next t → t.cfg = s.cfg ∧ t.env = s.nextEnv ∧ (s.inp.rstN = true → t.prevS = s.lineS)

/-- O58. The engine's sample is the bus line of `IN_LATENCY` ticks before, the wired-AND of its own drive and the others'
(the line is remembered as notes/assumptions/13.md says). -/
def Obligations.LineSeenLate : Prop :=
  ∀ (s t : State), After s s.cfg.inLatency t → t.lineS = (!s.owDrive && !s.inp.extLow)

/-- O59. The identity's load and its persisted serial: the serial bytes come back as they were supplied, in index order. The
CRC8: 0 for the empty message, and each further byte is added to it and eight turns of the register of x^8 + x^5 + x^4 + 1
follow; so a message followed by its CRC8 has the CRC8 0, a change within one byte is always seen, and the values are those
of 95_test_vectors.md E2 (the polynomial is not in the spec's source: notes/assumptions/18.md). -/
def Obligations.IdentityLoad : Prop :=
  let turn (c : Byte) : Byte := if c.getLsbD 0 then (c >>> 1) ^^^ 0x8C else c >>> 1
  (∀ (family : Byte) (serial : BitVec 48),
    (loadIdentity family serial)[0] = family ∧ packSerial (loadIdentity family serial) = serial ∧
    (loadIdentity family serial)[7] = crc8 (firstSeven (loadIdentity family serial)) ∧
    ∀ k : Fin 6, (loadIdentity family serial)[k.val + 1] = serial.extractLsb' (8 * k.val) 8) ∧
  crc8 [] = 0 ∧
  (∀ (bytes : List Byte) (v : Byte), crc8 (bytes ++ [v]) = turn^[8] (crc8 bytes ^^^ v)) ∧
  (∀ bytes : List Byte, crc8 (bytes ++ [crc8 bytes]) = 0) ∧
  (∀ (before after : List Byte) (v w : Byte), v ≠ w → crc8 (before ++ v :: after) ≠ crc8 (before ++ w :: after)) ∧
  crc8 [0x3A, 0xAA, 0xDA, 0xBB, 0xCF, 0x00, 0x00] = 0xE6 ∧
  crc8 [0x28, 0x00, 0x00, 0x00, 0x00, 0x00, 0x00] = 0x1E ∧
  crc8 [0x3A, 0x01, 0x02, 0x03, 0x04, 0x05, 0x06] = 0x1F ∧
  crc8 [0x28, 0x01, 0x00, 0x00, 0x00, 0x00, 0x00] = 0x29 ∧
  crc8 [0x28, 0x00, 0x00, 0x00, 0x00, 0x00, 0x80] = 0x92 ∧
  crc8 [0x28, 0x01, 0x02, 0x03, 0x04, 0x05, 0x06] = 0x9E ∧
  crc8 [0x3B, 0xAA, 0xDA, 0xBB, 0xCF, 0x00, 0x00] = 0xDB ∧
  crc8 [0x02, 0x1C, 0xB8, 0x01, 0x00, 0x00, 0x00] = 0xA2 ∧
  crc8 [0x3A] = 0xC0

/-- O60. The output ports as functions of the state, and their values right after block reset. -/
def Obligations.OutputsOfState : Prop :=
  (∀ (s : State),
    (s.outputs.owDrive = true ↔ s.st = .presenceLow ∨ s.st = .intStretch ∨ s.st = .intPulse ∨
      (s.te.phase = .act ∧ s.te.dir = .send ∧ s.te.cur = false)) ∧
    (s.outputs.sel = true ↔ s.st = .device) ∧
    (s.outputs.irqReq = true ↔ s.st = .irqHook) ∧
    (s.outputs.sleepReq = true ↔ s.cfg.hasSleep = true ∧ s.st = .idle) ∧
    s.outputs.awaitingResetO = s.awaitingReset ∧ s.outputs.intArmedO = s.intArmed ∧
    s.outputs.xrsp = s.rsp ∧ s.outputs.nvWr = s.nv) ∧
  ∀ (cfg : Config) (family : Byte) (serial : BitVec 48) (env : Environment),
    (State.afterReset cfg family serial env).outputs =
      ⟨false, false, ⟨false, .ok, 0⟩, false, cfg.hasSleep, ⟨false, 0⟩, true, false⟩
end

