-- ==== Sys2Proof/Laws/State.lean ====
section
/-! SUPPORT. One lemma for each field of State and each operation of Machine/: what the operation leaves in that field. -/

namespace Sys2Proof.Machine

/-! ### dlStart -/

@[simp] theorem State.dlStart_cfg (k : Nat) (n : State) : (n.dlStart k).cfg = n.cfg := rfl
@[simp] theorem State.dlStart_st (k : Nat) (n : State) : (n.dlStart k).st = n.st := rfl
@[simp] theorem State.dlStart_id (k : Nat) (n : State) : (n.dlStart k).id = n.id := rfl
@[simp] theorem State.dlStart_awaitingReset (k : Nat) (n : State) : (n.dlStart k).awaitingReset = n.awaitingReset := rfl
@[simp] theorem State.dlStart_resumeEligible (k : Nat) (n : State) : (n.dlStart k).resumeEligible = n.resumeEligible := rfl
@[simp] theorem State.dlStart_alarmAsserted (k : Nat) (n : State) : (n.dlStart k).alarmAsserted = n.alarmAsserted := rfl
@[simp] theorem State.dlStart_intClass (k : Nat) (n : State) : (n.dlStart k).intClass = n.intClass := rfl
@[simp] theorem State.dlStart_intArmed (k : Nat) (n : State) : (n.dlStart k).intArmed = n.intArmed := rfl
@[simp] theorem State.dlStart_faultCode (k : Nat) (n : State) : (n.dlStart k).faultCode = n.faultCode := rfl
@[simp] theorem State.dlStart_dl (k : Nat) (n : State) : (n.dlStart k).dl = ⟨(k : Int) - 1, true⟩ := rfl
@[simp] theorem State.dlStart_dly (k : Nat) (n : State) : (n.dlStart k).dly = n.dly := rfl
@[simp] theorem State.dlStart_prevS (k : Nat) (n : State) : (n.dlStart k).prevS = n.prevS := rfl
@[simp] theorem State.dlStart_te (k : Nat) (n : State) : (n.dlStart k).te = n.te := rfl
@[simp] theorem State.dlStart_rom (k : Nat) (n : State) : (n.dlStart k).rom = n.rom := rfl
@[simp] theorem State.dlStart_rstQualified (k : Nat) (n : State) : (n.dlStart k).rstQualified = n.rstQualified := rfl
@[simp] theorem State.dlStart_rsp (k : Nat) (n : State) : (n.dlStart k).rsp = n.rsp := rfl
@[simp] theorem State.dlStart_nv (k : Nat) (n : State) : (n.dlStart k).nv = n.nv := rfl
@[simp] theorem State.dlStart_env (k : Nat) (n : State) : (n.dlStart k).env = n.env := rfl

/-! ### dlStop -/

@[simp] theorem State.dlStop_cfg (n : State) : n.dlStop.cfg = n.cfg := rfl
@[simp] theorem State.dlStop_st (n : State) : n.dlStop.st = n.st := rfl
@[simp] theorem State.dlStop_id (n : State) : n.dlStop.id = n.id := rfl
@[simp] theorem State.dlStop_awaitingReset (n : State) : n.dlStop.awaitingReset = n.awaitingReset := rfl
@[simp] theorem State.dlStop_resumeEligible (n : State) : n.dlStop.resumeEligible = n.resumeEligible := rfl
@[simp] theorem State.dlStop_alarmAsserted (n : State) : n.dlStop.alarmAsserted = n.alarmAsserted := rfl
@[simp] theorem State.dlStop_intClass (n : State) : n.dlStop.intClass = n.intClass := rfl
@[simp] theorem State.dlStop_intArmed (n : State) : n.dlStop.intArmed = n.intArmed := rfl
@[simp] theorem State.dlStop_faultCode (n : State) : n.dlStop.faultCode = n.faultCode := rfl
@[simp] theorem State.dlStop_dl (n : State) : n.dlStop.dl = ⟨-1, false⟩ := rfl
@[simp] theorem State.dlStop_dly (n : State) : n.dlStop.dly = n.dly := rfl
@[simp] theorem State.dlStop_prevS (n : State) : n.dlStop.prevS = n.prevS := rfl
@[simp] theorem State.dlStop_te (n : State) : n.dlStop.te = n.te := rfl
@[simp] theorem State.dlStop_rom (n : State) : n.dlStop.rom = n.rom := rfl
@[simp] theorem State.dlStop_rstQualified (n : State) : n.dlStop.rstQualified = n.rstQualified := rfl
@[simp] theorem State.dlStop_rsp (n : State) : n.dlStop.rsp = n.rsp := rfl
@[simp] theorem State.dlStop_nv (n : State) : n.dlStop.nv = n.nv := rfl
@[simp] theorem State.dlStop_env (n : State) : n.dlStop.env = n.env := rfl

/-! ### enterStart -/

@[simp] theorem State.enterStart_cfg (n : State) : n.enterStart.cfg = n.cfg := rfl
@[simp] theorem State.enterStart_st (n : State) : n.enterStart.st = n.st := rfl
@[simp] theorem State.enterStart_id (n : State) : n.enterStart.id = n.id := rfl
@[simp] theorem State.enterStart_awaitingReset (n : State) : n.enterStart.awaitingReset = n.awaitingReset := rfl
@[simp] theorem State.enterStart_resumeEligible (n : State) : n.enterStart.resumeEligible = n.resumeEligible := rfl
@[simp] theorem State.enterStart_alarmAsserted (n : State) : n.enterStart.alarmAsserted = n.alarmAsserted := rfl
@[simp] theorem State.enterStart_intClass (n : State) : n.enterStart.intClass = n.intClass := rfl
@[simp] theorem State.enterStart_intArmed (n : State) : n.enterStart.intArmed = true := rfl
@[simp] theorem State.enterStart_faultCode (n : State) : n.enterStart.faultCode = n.faultCode := rfl
@[simp] theorem State.enterStart_dl (n : State) : n.enterStart.dl = ⟨(n.cfg.tSlotWait : Int) - 1, true⟩ := rfl
@[simp] theorem State.enterStart_dly (n : State) : n.enterStart.dly = n.dly := rfl
@[simp] theorem State.enterStart_prevS (n : State) : n.enterStart.prevS = n.prevS := rfl
@[simp] theorem State.enterStart_te (n : State) : n.enterStart.te = { n.te with phase := .start } := rfl
@[simp] theorem State.enterStart_rom (n : State) : n.enterStart.rom = n.rom := rfl
@[simp] theorem State.enterStart_rstQualified (n : State) : n.enterStart.rstQualified = n.rstQualified := rfl
@[simp] theorem State.enterStart_rsp (n : State) : n.enterStart.rsp = n.rsp := rfl
@[simp] theorem State.enterStart_nv (n : State) : n.enterStart.nv = n.nv := rfl
@[simp] theorem State.enterStart_env (n : State) : n.enterStart.env = n.env := rfl

/-! ### teBegin -/

@[simp] theorem State.teBegin_cfg (op : TransferOp) (data : Byte) (c : Client) (n : State) : (n.teBegin op data c).cfg = n.cfg := rfl
@[simp] theorem State.teBegin_st (op : TransferOp) (data : Byte) (c : Client) (n : State) : (n.teBegin op data c).st = n.st := rfl
@[simp] theorem State.teBegin_id (op : TransferOp) (data : Byte) (c : Client) (n : State) : (n.teBegin op data c).id = n.id := rfl
@[simp] theorem State.teBegin_awaitingReset (op : TransferOp) (data : Byte) (c : Client) (n : State) : (n.teBegin op data c).awaitingReset = n.awaitingReset := rfl
@[simp] theorem State.teBegin_resumeEligible (op : TransferOp) (data : Byte) (c : Client) (n : State) : (n.teBegin op data c).resumeEligible = n.resumeEligible := rfl
@[simp] theorem State.teBegin_alarmAsserted (op : TransferOp) (data : Byte) (c : Client) (n : State) : (n.teBegin op data c).alarmAsserted = n.alarmAsserted := rfl
@[simp] theorem State.teBegin_intClass (op : TransferOp) (data : Byte) (c : Client) (n : State) : (n.teBegin op data c).intClass = n.intClass := rfl
@[simp] theorem State.teBegin_intArmed (op : TransferOp) (data : Byte) (c : Client) (n : State) : (n.teBegin op data c).intArmed = true := rfl
@[simp] theorem State.teBegin_faultCode (op : TransferOp) (data : Byte) (c : Client) (n : State) : (n.teBegin op data c).faultCode = n.faultCode := rfl
@[simp] theorem State.teBegin_dl (op : TransferOp) (data : Byte) (c : Client) (n : State) : (n.teBegin op data c).dl = ⟨(n.cfg.tSlotWait : Int) - 1, true⟩ := rfl
@[simp] theorem State.teBegin_dly (op : TransferOp) (data : Byte) (c : Client) (n : State) : (n.teBegin op data c).dly = n.dly := rfl
@[simp] theorem State.teBegin_prevS (op : TransferOp) (data : Byte) (c : Client) (n : State) : (n.teBegin op data c).prevS = n.prevS := rfl
@[simp] theorem State.teBegin_te (op : TransferOp) (data : Byte) (c : Client) (n : State) : (n.teBegin op data c).te = { setupSlot (beginTe op data c n.te) with phase := .start } := rfl
@[simp] theorem State.teBegin_rom (op : TransferOp) (data : Byte) (c : Client) (n : State) : (n.teBegin op data c).rom = n.rom := rfl
@[simp] theorem State.teBegin_rstQualified (op : TransferOp) (data : Byte) (c : Client) (n : State) : (n.teBegin op data c).rstQualified = n.rstQualified := rfl
@[simp] theorem State.teBegin_rsp (op : TransferOp) (data : Byte) (c : Client) (n : State) : (n.teBegin op data c).rsp = n.rsp := rfl
@[simp] theorem State.teBegin_nv (op : TransferOp) (data : Byte) (c : Client) (n : State) : (n.teBegin op data c).nv = n.nv := rfl
@[simp] theorem State.teBegin_env (op : TransferOp) (data : Byte) (c : Client) (n : State) : (n.teBegin op data c).env = n.env := rfl

/-! ### nextSlot -/

@[simp] theorem State.nextSlot_cfg (cnt : BitVec 3) (tri : BitVec 2) (n : State) : (n.nextSlot cnt tri).cfg = n.cfg := rfl
@[simp] theorem State.nextSlot_st (cnt : BitVec 3) (tri : BitVec 2) (n : State) : (n.nextSlot cnt tri).st = n.st := rfl
@[simp] theorem State.nextSlot_id (cnt : BitVec 3) (tri : BitVec 2) (n : State) : (n.nextSlot cnt tri).id = n.id := rfl
@[simp] theorem State.nextSlot_awaitingReset (cnt : BitVec 3) (tri : BitVec 2) (n : State) : (n.nextSlot cnt tri).awaitingReset = n.awaitingReset := rfl
@[simp] theorem State.nextSlot_resumeEligible (cnt : BitVec 3) (tri : BitVec 2) (n : State) : (n.nextSlot cnt tri).resumeEligible = n.resumeEligible := rfl
@[simp] theorem State.nextSlot_alarmAsserted (cnt : BitVec 3) (tri : BitVec 2) (n : State) : (n.nextSlot cnt tri).alarmAsserted = n.alarmAsserted := rfl
@[simp] theorem State.nextSlot_intClass (cnt : BitVec 3) (tri : BitVec 2) (n : State) : (n.nextSlot cnt tri).intClass = n.intClass := rfl
@[simp] theorem State.nextSlot_intArmed (cnt : BitVec 3) (tri : BitVec 2) (n : State) : (n.nextSlot cnt tri).intArmed = true := rfl
@[simp] theorem State.nextSlot_faultCode (cnt : BitVec 3) (tri : BitVec 2) (n : State) : (n.nextSlot cnt tri).faultCode = n.faultCode := rfl
@[simp] theorem State.nextSlot_dl (cnt : BitVec 3) (tri : BitVec 2) (n : State) : (n.nextSlot cnt tri).dl = ⟨(n.cfg.tSlotWait : Int) - 1, true⟩ := rfl
@[simp] theorem State.nextSlot_dly (cnt : BitVec 3) (tri : BitVec 2) (n : State) : (n.nextSlot cnt tri).dly = n.dly := rfl
@[simp] theorem State.nextSlot_prevS (cnt : BitVec 3) (tri : BitVec 2) (n : State) : (n.nextSlot cnt tri).prevS = n.prevS := rfl
@[simp] theorem State.nextSlot_te (cnt : BitVec 3) (tri : BitVec 2) (n : State) : (n.nextSlot cnt tri).te = { setupSlot { n.te with cnt := cnt, tri := tri } with phase := .start } := rfl
@[simp] theorem State.nextSlot_rom (cnt : BitVec 3) (tri : BitVec 2) (n : State) : (n.nextSlot cnt tri).rom = n.rom := rfl
@[simp] theorem State.nextSlot_rstQualified (cnt : BitVec 3) (tri : BitVec 2) (n : State) : (n.nextSlot cnt tri).rstQualified = n.rstQualified := rfl
@[simp] theorem State.nextSlot_rsp (cnt : BitVec 3) (tri : BitVec 2) (n : State) : (n.nextSlot cnt tri).rsp = n.rsp := rfl
@[simp] theorem State.nextSlot_nv (cnt : BitVec 3) (tri : BitVec 2) (n : State) : (n.nextSlot cnt tri).nv = n.nv := rfl
@[simp] theorem State.nextSlot_env (cnt : BitVec 3) (tri : BitVec 2) (n : State) : (n.nextSlot cnt tri).env = n.env := rfl

/-! ### teDone -/

@[simp] theorem State.teDone_cfg (n : State) : n.teDone.cfg = n.cfg := rfl
@[simp] theorem State.teDone_st (n : State) : n.teDone.st = n.st := rfl
@[simp] theorem State.teDone_id (n : State) : n.teDone.id = n.id := rfl
@[simp] theorem State.teDone_awaitingReset (n : State) : n.teDone.awaitingReset = n.awaitingReset := rfl
@[simp] theorem State.teDone_resumeEligible (n : State) : n.teDone.resumeEligible = n.resumeEligible := rfl
@[simp] theorem State.teDone_alarmAsserted (n : State) : n.teDone.alarmAsserted = n.alarmAsserted := rfl
@[simp] theorem State.teDone_intClass (n : State) : n.teDone.intClass = n.intClass := rfl
@[simp] theorem State.teDone_intArmed (n : State) : n.teDone.intArmed = n.intArmed := rfl
@[simp] theorem State.teDone_faultCode (n : State) : n.teDone.faultCode = n.faultCode := rfl
@[simp] theorem State.teDone_dl (n : State) : n.teDone.dl = ⟨-1, false⟩ := rfl
@[simp] theorem State.teDone_dly (n : State) : n.teDone.dly = n.dly := rfl
@[simp] theorem State.teDone_prevS (n : State) : n.teDone.prevS = n.prevS := rfl
@[simp] theorem State.teDone_te (n : State) : n.teDone.te = { n.te with phase := .idle } := rfl
@[simp] theorem State.teDone_rom (n : State) : n.teDone.rom = n.rom := rfl
@[simp] theorem State.teDone_rstQualified (n : State) : n.teDone.rstQualified = n.rstQualified := rfl
@[simp] theorem State.teDone_rsp (n : State) : n.teDone.rsp = n.rsp := rfl
@[simp] theorem State.teDone_nv (n : State) : n.teDone.nv = n.nv := rfl
@[simp] theorem State.teDone_env (n : State) : n.teDone.env = n.env := rfl

/-! ### respond -/

@[simp] theorem State.respond_cfg (x : Status) (data : Byte) (n : State) : (n.respond x data).cfg = n.cfg := rfl
@[simp] theorem State.respond_st (x : Status) (data : Byte) (n : State) : (n.respond x data).st = n.st := rfl
@[simp] theorem State.respond_id (x : Status) (data : Byte) (n : State) : (n.respond x data).id = n.id := rfl
@[simp] theorem State.respond_awaitingReset (x : Status) (data : Byte) (n : State) : (n.respond x data).awaitingReset = n.awaitingReset := rfl
@[simp] theorem State.respond_resumeEligible (x : Status) (data : Byte) (n : State) : (n.respond x data).resumeEligible = n.resumeEligible := rfl
@[simp] theorem State.respond_alarmAsserted (x : Status) (data : Byte) (n : State) : (n.respond x data).alarmAsserted = n.alarmAsserted := rfl
@[simp] theorem State.respond_intClass (x : Status) (data : Byte) (n : State) : (n.respond x data).intClass = n.intClass := rfl
@[simp] theorem State.respond_intArmed (x : Status) (data : Byte) (n : State) : (n.respond x data).intArmed = n.intArmed := rfl
@[simp] theorem State.respond_faultCode (x : Status) (data : Byte) (n : State) : (n.respond x data).faultCode = n.faultCode := rfl
@[simp] theorem State.respond_dl (x : Status) (data : Byte) (n : State) : (n.respond x data).dl = n.dl := rfl
@[simp] theorem State.respond_dly (x : Status) (data : Byte) (n : State) : (n.respond x data).dly = n.dly := rfl
@[simp] theorem State.respond_prevS (x : Status) (data : Byte) (n : State) : (n.respond x data).prevS = n.prevS := rfl
@[simp] theorem State.respond_te (x : Status) (data : Byte) (n : State) : (n.respond x data).te = n.te := rfl
@[simp] theorem State.respond_rom (x : Status) (data : Byte) (n : State) : (n.respond x data).rom = n.rom := rfl
@[simp] theorem State.respond_rstQualified (x : Status) (data : Byte) (n : State) : (n.respond x data).rstQualified = n.rstQualified := rfl
@[simp] theorem State.respond_rsp (x : Status) (data : Byte) (n : State) : (n.respond x data).rsp = ⟨true, x, data⟩ := rfl
@[simp] theorem State.respond_nv (x : Status) (data : Byte) (n : State) : (n.respond x data).nv = n.nv := rfl
@[simp] theorem State.respond_env (x : Status) (data : Byte) (n : State) : (n.respond x data).env = n.env := rfl

/-! ### abortTransfer -/

@[simp] theorem State.abortTransfer_cfg (n : State) : n.abortTransfer.cfg = n.cfg := by
  unfold State.abortTransfer State.respond; split <;> [rfl; (dsimp only; split <;> rfl)]
@[simp] theorem State.abortTransfer_st (n : State) : n.abortTransfer.st = n.st := by
  unfold State.abortTransfer State.respond; split <;> [rfl; (dsimp only; split <;> rfl)]
@[simp] theorem State.abortTransfer_id (n : State) : n.abortTransfer.id = n.id := by
  unfold State.abortTransfer State.respond; split <;> [rfl; (dsimp only; split <;> rfl)]
@[simp] theorem State.abortTransfer_awaitingReset (n : State) : n.abortTransfer.awaitingReset = n.awaitingReset := by
  unfold State.abortTransfer State.respond; split <;> [rfl; (dsimp only; split <;> rfl)]
@[simp] theorem State.abortTransfer_resumeEligible (n : State) : n.abortTransfer.resumeEligible = n.resumeEligible := by
  unfold State.abortTransfer State.respond; split <;> [rfl; (dsimp only; split <;> rfl)]
@[simp] theorem State.abortTransfer_alarmAsserted (n : State) : n.abortTransfer.alarmAsserted = n.alarmAsserted := by
  unfold State.abortTransfer State.respond; split <;> [rfl; (dsimp only; split <;> rfl)]
@[simp] theorem State.abortTransfer_intClass (n : State) : n.abortTransfer.intClass = n.intClass := by
  unfold State.abortTransfer State.respond; split <;> [rfl; (dsimp only; split <;> rfl)]
@[simp] theorem State.abortTransfer_faultCode (n : State) : n.abortTransfer.faultCode = n.faultCode := by
  unfold State.abortTransfer State.respond; split <;> [rfl; (dsimp only; split <;> rfl)]
@[simp] theorem State.abortTransfer_dl (n : State) : n.abortTransfer.dl = n.dl := by
  unfold State.abortTransfer State.respond; split <;> [rfl; (dsimp only; split <;> rfl)]
@[simp] theorem State.abortTransfer_dly (n : State) : n.abortTransfer.dly = n.dly := by
  unfold State.abortTransfer State.respond; split <;> [rfl; (dsimp only; split <;> rfl)]
@[simp] theorem State.abortTransfer_prevS (n : State) : n.abortTransfer.prevS = n.prevS := by
  unfold State.abortTransfer State.respond; split <;> [rfl; (dsimp only; split <;> rfl)]
@[simp] theorem State.abortTransfer_te (n : State) : n.abortTransfer.te = { n.te with phase := .idle } := by
  cases n with | mk cfg st id a b c d e f dl dly p te => cases te with | mk ph op cl => cases ph <;> cases cl <;> rfl
@[simp] theorem State.abortTransfer_rom (n : State) : n.abortTransfer.rom = n.rom := by
  unfold State.abortTransfer State.respond; split <;> [rfl; (dsimp only; split <;> rfl)]
@[simp] theorem State.abortTransfer_rstQualified (n : State) : n.abortTransfer.rstQualified = n.rstQualified := by
  unfold State.abortTransfer State.respond; split <;> [rfl; (dsimp only; split <;> rfl)]
@[simp] theorem State.abortTransfer_nv (n : State) : n.abortTransfer.nv = n.nv := by
  unfold State.abortTransfer State.respond; split <;> [rfl; (dsimp only; split <;> rfl)]
@[simp] theorem State.abortTransfer_env (n : State) : n.abortTransfer.env = n.env := by
  unfold State.abortTransfer State.respond; split <;> [rfl; (dsimp only; split <;> rfl)]
@[simp] theorem State.abortTransfer_intArmed (n : State) :
    n.abortTransfer.intArmed = if n.te.phase = .idle then n.intArmed else false := by
  unfold State.abortTransfer State.respond; split <;> [rfl; (dsimp only; split <;> rfl)]
@[simp] theorem State.abortTransfer_rsp (n : State) :
    n.abortTransfer.rsp = if n.te.phase ≠ .idle ∧ n.te.client = .dev then ⟨true, .aborted, 0⟩ else n.rsp := by
  by_cases h : n.te.phase = .idle <;> by_cases h2 : n.te.client = .dev <;>
    simp [State.abortTransfer, State.respond, h, h2]

/-! ### recoverToIdle -/

@[simp] theorem State.recoverToIdle_cfg (n : State) : n.recoverToIdle.cfg = n.cfg := rfl
@[simp] theorem State.recoverToIdle_st (n : State) : n.recoverToIdle.st = .idle := rfl
@[simp] theorem State.recoverToIdle_id (n : State) : n.recoverToIdle.id = n.id := rfl
@[simp] theorem State.recoverToIdle_awaitingReset (n : State) : n.recoverToIdle.awaitingReset = true := rfl
@[simp] theorem State.recoverToIdle_resumeEligible (n : State) : n.recoverToIdle.resumeEligible = n.resumeEligible := rfl
@[simp] theorem State.recoverToIdle_alarmAsserted (n : State) : n.recoverToIdle.alarmAsserted = n.alarmAsserted := rfl
@[simp] theorem State.recoverToIdle_intClass (n : State) : n.recoverToIdle.intClass = n.intClass := rfl
@[simp] theorem State.recoverToIdle_intArmed (n : State) : n.recoverToIdle.intArmed = n.intArmed := rfl
@[simp] theorem State.recoverToIdle_faultCode (n : State) : n.recoverToIdle.faultCode = n.faultCode := rfl
@[simp] theorem State.recoverToIdle_dl (n : State) : n.recoverToIdle.dl = ⟨-1, false⟩ := rfl
@[simp] theorem State.recoverToIdle_dly (n : State) : n.recoverToIdle.dly = n.dly := rfl
@[simp] theorem State.recoverToIdle_prevS (n : State) : n.recoverToIdle.prevS = n.prevS := rfl
@[simp] theorem State.recoverToIdle_te (n : State) : n.recoverToIdle.te = n.te := rfl
@[simp] theorem State.recoverToIdle_rom (n : State) : n.recoverToIdle.rom = n.rom := rfl
@[simp] theorem State.recoverToIdle_rstQualified (n : State) : n.recoverToIdle.rstQualified = false := rfl
@[simp] theorem State.recoverToIdle_rsp (n : State) : n.recoverToIdle.rsp = n.rsp := rfl
@[simp] theorem State.recoverToIdle_nv (n : State) : n.recoverToIdle.nv = n.nv := rfl
@[simp] theorem State.recoverToIdle_env (n : State) : n.recoverToIdle.env = n.env := rfl

/-! ### recoverToMeasure -/

@[simp] theorem State.recoverToMeasure_cfg (n : State) : n.recoverToMeasure.cfg = n.cfg := rfl
@[simp] theorem State.recoverToMeasure_st (n : State) : n.recoverToMeasure.st = .resetMeasure := rfl
@[simp] theorem State.recoverToMeasure_id (n : State) : n.recoverToMeasure.id = n.id := rfl
@[simp] theorem State.recoverToMeasure_awaitingReset (n : State) : n.recoverToMeasure.awaitingReset = false := rfl
@[simp] theorem State.recoverToMeasure_resumeEligible (n : State) : n.recoverToMeasure.resumeEligible = n.resumeEligible := rfl
@[simp] theorem State.recoverToMeasure_alarmAsserted (n : State) : n.recoverToMeasure.alarmAsserted = n.alarmAsserted := rfl
@[simp] theorem State.recoverToMeasure_intClass (n : State) : n.recoverToMeasure.intClass = n.intClass := rfl
@[simp] theorem State.recoverToMeasure_intArmed (n : State) : n.recoverToMeasure.intArmed = n.intArmed := rfl
@[simp] theorem State.recoverToMeasure_faultCode (n : State) : n.recoverToMeasure.faultCode = n.faultCode := rfl
@[simp] theorem State.recoverToMeasure_dl (n : State) : n.recoverToMeasure.dl = ⟨((n.cfg.tResetDeadline - n.cfg.tSlotLowMax - 1 : Nat) : Int) - 1, true⟩ := rfl
@[simp] theorem State.recoverToMeasure_dly (n : State) : n.recoverToMeasure.dly = n.dly := rfl
@[simp] theorem State.recoverToMeasure_prevS (n : State) : n.recoverToMeasure.prevS = n.prevS := rfl
@[simp] theorem State.recoverToMeasure_te (n : State) : n.recoverToMeasure.te = n.te := rfl
@[simp] theorem State.recoverToMeasure_rom (n : State) : n.recoverToMeasure.rom = n.rom := rfl
@[simp] theorem State.recoverToMeasure_rstQualified (n : State) : n.recoverToMeasure.rstQualified = false := rfl
@[simp] theorem State.recoverToMeasure_rsp (n : State) : n.recoverToMeasure.rsp = n.rsp := rfl
@[simp] theorem State.recoverToMeasure_nv (n : State) : n.recoverToMeasure.nv = n.nv := rfl
@[simp] theorem State.recoverToMeasure_env (n : State) : n.recoverToMeasure.env = n.env := rfl

/-! ### recoverToIrqHook -/

@[simp] theorem State.recoverToIrqHook_cfg (n : State) : n.recoverToIrqHook.cfg = n.cfg := rfl
@[simp] theorem State.recoverToIrqHook_st (n : State) : n.recoverToIrqHook.st = .irqHook := rfl
@[simp] theorem State.recoverToIrqHook_id (n : State) : n.recoverToIrqHook.id = n.id := rfl
@[simp] theorem State.recoverToIrqHook_awaitingReset (n : State) : n.recoverToIrqHook.awaitingReset = true := rfl
@[simp] theorem State.recoverToIrqHook_resumeEligible (n : State) : n.recoverToIrqHook.resumeEligible = n.resumeEligible := rfl
@[simp] theorem State.recoverToIrqHook_alarmAsserted (n : State) : n.recoverToIrqHook.alarmAsserted = n.alarmAsserted := rfl
@[simp] theorem State.recoverToIrqHook_intClass (n : State) : n.recoverToIrqHook.intClass = n.intClass := rfl
@[simp] theorem State.recoverToIrqHook_intArmed (n : State) : n.recoverToIrqHook.intArmed = n.intArmed := rfl
@[simp] theorem State.recoverToIrqHook_faultCode (n : State) : n.recoverToIrqHook.faultCode = n.faultCode := rfl
@[simp] theorem State.recoverToIrqHook_dl (n : State) : n.recoverToIrqHook.dl = ⟨-1, false⟩ := rfl
@[simp] theorem State.recoverToIrqHook_dly (n : State) : n.recoverToIrqHook.dly = n.dly := rfl
@[simp] theorem State.recoverToIrqHook_prevS (n : State) : n.recoverToIrqHook.prevS = n.prevS := rfl
@[simp] theorem State.recoverToIrqHook_te (n : State) : n.recoverToIrqHook.te = n.te := rfl
@[simp] theorem State.recoverToIrqHook_rom (n : State) : n.recoverToIrqHook.rom = n.rom := rfl
@[simp] theorem State.recoverToIrqHook_rstQualified (n : State) : n.recoverToIrqHook.rstQualified = n.rstQualified := rfl
@[simp] theorem State.recoverToIrqHook_rsp (n : State) : n.recoverToIrqHook.rsp = n.rsp := rfl
@[simp] theorem State.recoverToIrqHook_nv (n : State) : n.recoverToIrqHook.nv = n.nv := rfl
@[simp] theorem State.recoverToIrqHook_env (n : State) : n.recoverToIrqHook.env = n.env := rfl

/-! ### raiseFault -/

@[simp] theorem State.raiseFault_cfg (f : FaultKind) (n : State) : (n.raiseFault f).cfg = n.cfg := by
  cases f <;> simp [State.raiseFault, State.recover, FaultKind.code]
@[simp] theorem State.raiseFault_id (f : FaultKind) (n : State) : (n.raiseFault f).id = n.id := by
  cases f <;> simp [State.raiseFault, State.recover, FaultKind.code]
@[simp] theorem State.raiseFault_resumeEligible (f : FaultKind) (n : State) : (n.raiseFault f).resumeEligible = n.resumeEligible := by
  cases f <;> simp [State.raiseFault, State.recover, FaultKind.code]
@[simp] theorem State.raiseFault_alarmAsserted (f : FaultKind) (n : State) : (n.raiseFault f).alarmAsserted = n.alarmAsserted := by
  cases f <;> simp [State.raiseFault, State.recover, FaultKind.code]
@[simp] theorem State.raiseFault_intClass (f : FaultKind) (n : State) : (n.raiseFault f).intClass = n.intClass := by
  cases f <;> simp [State.raiseFault, State.recover, FaultKind.code]
@[simp] theorem State.raiseFault_faultCode (f : FaultKind) (n : State) : (n.raiseFault f).faultCode = f.code := by
  cases f <;> simp [State.raiseFault, State.recover, FaultKind.code]
@[simp] theorem State.raiseFault_dly (f : FaultKind) (n : State) : (n.raiseFault f).dly = n.dly := by
  cases f <;> simp [State.raiseFault, State.recover, FaultKind.code]
@[simp] theorem State.raiseFault_prevS (f : FaultKind) (n : State) : (n.raiseFault f).prevS = n.prevS := by
  cases f <;> simp [State.raiseFault, State.recover, FaultKind.code]
@[simp] theorem State.raiseFault_te (f : FaultKind) (n : State) : (n.raiseFault f).te = { n.te with phase := .idle } := by
  cases f <;> simp [State.raiseFault, State.recover, FaultKind.code]
@[simp] theorem State.raiseFault_rom (f : FaultKind) (n : State) : (n.raiseFault f).rom = n.rom := by
  cases f <;> simp [State.raiseFault, State.recover, FaultKind.code]
@[simp] theorem State.raiseFault_nv (f : FaultKind) (n : State) : (n.raiseFault f).nv = n.nv := by
  cases f <;> simp [State.raiseFault, State.recover, FaultKind.code]
@[simp] theorem State.raiseFault_env (f : FaultKind) (n : State) : (n.raiseFault f).env = n.env := by
  cases f <;> simp [State.raiseFault, State.recover, FaultKind.code]
@[simp] theorem State.raiseFault_intArmed (f : FaultKind) (n : State) :
    (n.raiseFault f).intArmed = if n.te.phase = .idle then n.intArmed else false := by
  cases f <;> simp [State.raiseFault, State.recover]
@[simp] theorem State.raiseFault_rsp (f : FaultKind) (n : State) :
    (n.raiseFault f).rsp = if n.te.phase ≠ .idle ∧ n.te.client = .dev then ⟨true, .aborted, 0⟩ else n.rsp := by
  cases f <;> simp [State.raiseFault, State.recover]

/-! ### leaveIrqHook -/

@[simp] theorem State.leaveIrqHook_cfg (n : State) : n.leaveIrqHook.cfg = n.cfg := rfl
@[simp] theorem State.leaveIrqHook_st (n : State) : n.leaveIrqHook.st = .idle := rfl
@[simp] theorem State.leaveIrqHook_id (n : State) : n.leaveIrqHook.id = n.id := rfl
@[simp] theorem State.leaveIrqHook_awaitingReset (n : State) : n.leaveIrqHook.awaitingReset = true := rfl
@[simp] theorem State.leaveIrqHook_resumeEligible (n : State) : n.leaveIrqHook.resumeEligible = n.resumeEligible := rfl
@[simp] theorem State.leaveIrqHook_alarmAsserted (n : State) : n.leaveIrqHook.alarmAsserted = n.alarmAsserted := rfl
@[simp] theorem State.leaveIrqHook_intClass (n : State) : n.leaveIrqHook.intClass = n.intClass := rfl
@[simp] theorem State.leaveIrqHook_intArmed (n : State) : n.leaveIrqHook.intArmed = n.intArmed := rfl
@[simp] theorem State.leaveIrqHook_faultCode (n : State) : n.leaveIrqHook.faultCode = n.faultCode := rfl
@[simp] theorem State.leaveIrqHook_dl (n : State) : n.leaveIrqHook.dl = ⟨-1, false⟩ := rfl
@[simp] theorem State.leaveIrqHook_dly (n : State) : n.leaveIrqHook.dly = n.dly := rfl
@[simp] theorem State.leaveIrqHook_prevS (n : State) : n.leaveIrqHook.prevS = n.prevS := rfl
@[simp] theorem State.leaveIrqHook_te (n : State) : n.leaveIrqHook.te = n.te := rfl
@[simp] theorem State.leaveIrqHook_rom (n : State) : n.leaveIrqHook.rom = n.rom := rfl
@[simp] theorem State.leaveIrqHook_rstQualified (n : State) : n.leaveIrqHook.rstQualified = n.rstQualified := rfl
@[simp] theorem State.leaveIrqHook_rsp (n : State) : n.leaveIrqHook.rsp = n.rsp := rfl
@[simp] theorem State.leaveIrqHook_nv (n : State) : n.leaveIrqHook.nv = n.nv := rfl
@[simp] theorem State.leaveIrqHook_env (n : State) : n.leaveIrqHook.env = n.env := rfl

/-! ### enterIntPulse -/

@[simp] theorem State.enterIntPulse_cfg (n : State) : n.enterIntPulse.cfg = n.cfg := rfl
@[simp] theorem State.enterIntPulse_st (n : State) : n.enterIntPulse.st = .intPulse := rfl
@[simp] theorem State.enterIntPulse_id (n : State) : n.enterIntPulse.id = n.id := rfl
@[simp] theorem State.enterIntPulse_awaitingReset (n : State) : n.enterIntPulse.awaitingReset = false := rfl
@[simp] theorem State.enterIntPulse_resumeEligible (n : State) : n.enterIntPulse.resumeEligible = n.resumeEligible := rfl
@[simp] theorem State.enterIntPulse_alarmAsserted (n : State) : n.enterIntPulse.alarmAsserted = n.alarmAsserted := rfl
@[simp] theorem State.enterIntPulse_intClass (n : State) : n.enterIntPulse.intClass = 0 := rfl
@[simp] theorem State.enterIntPulse_intArmed (n : State) : n.enterIntPulse.intArmed = n.intArmed := rfl
@[simp] theorem State.enterIntPulse_faultCode (n : State) : n.enterIntPulse.faultCode = n.faultCode := rfl
@[simp] theorem State.enterIntPulse_dl (n : State) : n.enterIntPulse.dl = n.dl := rfl
@[simp] theorem State.enterIntPulse_dly (n : State) : n.enterIntPulse.dly = n.cfg.tIntPulse := rfl
@[simp] theorem State.enterIntPulse_prevS (n : State) : n.enterIntPulse.prevS = n.prevS := rfl
@[simp] theorem State.enterIntPulse_te (n : State) : n.enterIntPulse.te = n.te := rfl
@[simp] theorem State.enterIntPulse_rom (n : State) : n.enterIntPulse.rom = n.rom := rfl
@[simp] theorem State.enterIntPulse_rstQualified (n : State) : n.enterIntPulse.rstQualified = n.rstQualified := rfl
@[simp] theorem State.enterIntPulse_rsp (n : State) : n.enterIntPulse.rsp = n.rsp := rfl
@[simp] theorem State.enterIntPulse_nv (n : State) : n.enterIntPulse.nv = n.nv := rfl
@[simp] theorem State.enterIntPulse_env (n : State) : n.enterIntPulse.env = n.env := rfl

/-! ### endSession -/

@[simp] theorem State.endSession_cfg (n : State) : n.endSession.cfg = n.cfg := rfl
@[simp] theorem State.endSession_st (n : State) : n.endSession.st = .idle := rfl
@[simp] theorem State.endSession_id (n : State) : n.endSession.id = n.id := rfl
@[simp] theorem State.endSession_awaitingReset (n : State) : n.endSession.awaitingReset = true := rfl
@[simp] theorem State.endSession_resumeEligible (n : State) : n.endSession.resumeEligible = n.resumeEligible := rfl
@[simp] theorem State.endSession_alarmAsserted (n : State) : n.endSession.alarmAsserted = n.alarmAsserted := rfl
@[simp] theorem State.endSession_intClass (n : State) : n.endSession.intClass = n.intClass := rfl
@[simp] theorem State.endSession_intArmed (n : State) : n.endSession.intArmed = n.intArmed := rfl
@[simp] theorem State.endSession_faultCode (n : State) : n.endSession.faultCode = n.faultCode := rfl
@[simp] theorem State.endSession_dl (n : State) : n.endSession.dl = ⟨-1, false⟩ := rfl
@[simp] theorem State.endSession_dly (n : State) : n.endSession.dly = n.dly := rfl
@[simp] theorem State.endSession_prevS (n : State) : n.endSession.prevS = n.prevS := rfl
@[simp] theorem State.endSession_te (n : State) : n.endSession.te = n.te := rfl
@[simp] theorem State.endSession_rom (n : State) : n.endSession.rom = n.rom := rfl
@[simp] theorem State.endSession_rstQualified (n : State) : n.endSession.rstQualified = n.rstQualified := rfl
@[simp] theorem State.endSession_rsp (n : State) : n.endSession.rsp = n.rsp := rfl
@[simp] theorem State.endSession_nv (n : State) : n.endSession.nv = n.nv := rfl
@[simp] theorem State.endSession_env (n : State) : n.endSession.env = n.env := rfl

/-! ### setCondition -/

@[simp] theorem State.setCondition_cfg (a : Bool) (c : BitVec 2) (n : State) : (n.setCondition a c).cfg = n.cfg := rfl
@[simp] theorem State.setCondition_st (a : Bool) (c : BitVec 2) (n : State) : (n.setCondition a c).st = n.st := rfl
@[simp] theorem State.setCondition_id (a : Bool) (c : BitVec 2) (n : State) : (n.setCondition a c).id = n.id := rfl
@[simp] theorem State.setCondition_awaitingReset (a : Bool) (c : BitVec 2) (n : State) : (n.setCondition a c).awaitingReset = n.awaitingReset := rfl
@[simp] theorem State.setCondition_resumeEligible (a : Bool) (c : BitVec 2) (n : State) : (n.setCondition a c).resumeEligible = n.resumeEligible := rfl
@[simp] theorem State.setCondition_alarmAsserted (a : Bool) (c : BitVec 2) (n : State) : (n.setCondition a c).alarmAsserted = a := rfl
@[simp] theorem State.setCondition_intClass (a : Bool) (c : BitVec 2) (n : State) : (n.setCondition a c).intClass = if c = 3 then n.intClass else c := rfl
@[simp] theorem State.setCondition_intArmed (a : Bool) (c : BitVec 2) (n : State) : (n.setCondition a c).intArmed = n.intArmed := rfl
@[simp] theorem State.setCondition_faultCode (a : Bool) (c : BitVec 2) (n : State) : (n.setCondition a c).faultCode = n.faultCode := rfl
@[simp] theorem State.setCondition_dl (a : Bool) (c : BitVec 2) (n : State) : (n.setCondition a c).dl = n.dl := rfl
@[simp] theorem State.setCondition_dly (a : Bool) (c : BitVec 2) (n : State) : (n.setCondition a c).dly = n.dly := rfl
@[simp] theorem State.setCondition_prevS (a : Bool) (c : BitVec 2) (n : State) : (n.setCondition a c).prevS = n.prevS := rfl
@[simp] theorem State.setCondition_te (a : Bool) (c : BitVec 2) (n : State) : (n.setCondition a c).te = n.te := rfl
@[simp] theorem State.setCondition_rom (a : Bool) (c : BitVec 2) (n : State) : (n.setCondition a c).rom = n.rom := rfl
@[simp] theorem State.setCondition_rstQualified (a : Bool) (c : BitVec 2) (n : State) : (n.setCondition a c).rstQualified = n.rstQualified := rfl
@[simp] theorem State.setCondition_rsp (a : Bool) (c : BitVec 2) (n : State) : (n.setCondition a c).rsp = n.rsp := rfl
@[simp] theorem State.setCondition_nv (a : Bool) (c : BitVec 2) (n : State) : (n.setCondition a c).nv = n.nv := rfl
@[simp] theorem State.setCondition_env (a : Bool) (c : BitVec 2) (n : State) : (n.setCondition a c).env = n.env := rfl

/-! ### beginTick -/

@[simp] theorem State.beginTick_cfg (n : State) : n.beginTick.cfg = n.cfg := rfl
@[simp] theorem State.beginTick_st (n : State) : n.beginTick.st = n.st := rfl
@[simp] theorem State.beginTick_id (n : State) : n.beginTick.id = n.id := rfl
@[simp] theorem State.beginTick_awaitingReset (n : State) : n.beginTick.awaitingReset = n.awaitingReset := rfl
@[simp] theorem State.beginTick_resumeEligible (n : State) : n.beginTick.resumeEligible = n.resumeEligible := rfl
@[simp] theorem State.beginTick_alarmAsserted (n : State) : n.beginTick.alarmAsserted = n.alarmAsserted := rfl
@[simp] theorem State.beginTick_intClass (n : State) : n.beginTick.intClass = n.intClass := rfl
@[simp] theorem State.beginTick_intArmed (n : State) : n.beginTick.intArmed = n.intArmed := rfl
@[simp] theorem State.beginTick_faultCode (n : State) : n.beginTick.faultCode = n.faultCode := rfl
@[simp] theorem State.beginTick_dl (n : State) : n.beginTick.dl = dlCount n.cfg n.dl := rfl
@[simp] theorem State.beginTick_dly (n : State) : n.beginTick.dly = n.dly := rfl
@[simp] theorem State.beginTick_prevS (n : State) : n.beginTick.prevS = n.lineS := rfl
@[simp] theorem State.beginTick_te (n : State) : n.beginTick.te = n.te := rfl
@[simp] theorem State.beginTick_rom (n : State) : n.beginTick.rom = n.rom := rfl
@[simp] theorem State.beginTick_rstQualified (n : State) : n.beginTick.rstQualified = n.rstQualified := rfl
@[simp] theorem State.beginTick_rsp (n : State) : n.beginTick.rsp = ⟨false, .ok, 0⟩ := rfl
@[simp] theorem State.beginTick_nv (n : State) : n.beginTick.nv = nvNext n.env.tick n.nv := rfl
@[simp] theorem State.beginTick_env (n : State) : n.beginTick.env = n.env := rfl

/-! ### endTick -/

@[simp] theorem State.endTick_cfg (s n : State) : (s.endTick n).cfg = n.cfg := by
  unfold State.endTick; dsimp only; split <;> rfl
@[simp] theorem State.endTick_st (s n : State) : (s.endTick n).st = n.st := by
  unfold State.endTick; dsimp only; split <;> rfl
@[simp] theorem State.endTick_id (s n : State) : (s.endTick n).id = n.id := by
  unfold State.endTick; dsimp only; split <;> rfl
@[simp] theorem State.endTick_awaitingReset (s n : State) : (s.endTick n).awaitingReset = n.awaitingReset := by
  unfold State.endTick; dsimp only; split <;> rfl
@[simp] theorem State.endTick_resumeEligible (s n : State) : (s.endTick n).resumeEligible = n.resumeEligible := by
  unfold State.endTick; dsimp only; split <;> rfl
@[simp] theorem State.endTick_alarmAsserted (s n : State) : (s.endTick n).alarmAsserted = if s.inp.condValid then s.inp.condAlarm else n.alarmAsserted := by
  unfold State.endTick; dsimp only; split <;> rfl
@[simp] theorem State.endTick_intClass (s n : State) : (s.endTick n).intClass = if s.inp.condValid = true ∧ s.inp.condClass ≠ 3 then s.inp.condClass else n.intClass := by
  by_cases h : s.inp.condValid = true <;> by_cases h3 : s.inp.condClass = 3 <;> simp [State.endTick, State.setCondition, h, h3]
@[simp] theorem State.endTick_intArmed (s n : State) : (s.endTick n).intArmed = n.intArmed := by
  unfold State.endTick; dsimp only; split <;> rfl
@[simp] theorem State.endTick_faultCode (s n : State) : (s.endTick n).faultCode = n.faultCode := by
  unfold State.endTick; dsimp only; split <;> rfl
@[simp] theorem State.endTick_dl (s n : State) : (s.endTick n).dl = n.dl := by
  unfold State.endTick; dsimp only; split <;> rfl
@[simp] theorem State.endTick_dly (s n : State) : (s.endTick n).dly = n.dly := by
  unfold State.endTick; dsimp only; split <;> rfl
@[simp] theorem State.endTick_prevS (s n : State) : (s.endTick n).prevS = n.prevS := by
  unfold State.endTick; dsimp only; split <;> rfl
@[simp] theorem State.endTick_te (s n : State) : (s.endTick n).te = n.te := by
  unfold State.endTick; dsimp only; split <;> rfl
@[simp] theorem State.endTick_rom (s n : State) : (s.endTick n).rom = n.rom := by
  unfold State.endTick; dsimp only; split <;> rfl
@[simp] theorem State.endTick_rstQualified (s n : State) : (s.endTick n).rstQualified = n.rstQualified := by
  unfold State.endTick; dsimp only; split <;> rfl
@[simp] theorem State.endTick_rsp (s n : State) : (s.endTick n).rsp = n.rsp := by
  unfold State.endTick; dsimp only; split <;> rfl
@[simp] theorem State.endTick_nv (s n : State) : (s.endTick n).nv = n.nv := by
  unfold State.endTick; dsimp only; split <;> rfl
@[simp] theorem State.endTick_env (s n : State) : (s.endTick n).env = s.nextEnv := rfl

/-! ### startMeasure -/

@[simp] theorem State.startMeasure_cfg (k : Nat) (n : State) : (n.startMeasure k).cfg = n.cfg := rfl
@[simp] theorem State.startMeasure_st (k : Nat) (n : State) : (n.startMeasure k).st = .resetMeasure := rfl
@[simp] theorem State.startMeasure_id (k : Nat) (n : State) : (n.startMeasure k).id = n.id := rfl
@[simp] theorem State.startMeasure_awaitingReset (k : Nat) (n : State) : (n.startMeasure k).awaitingReset = false := rfl
@[simp] theorem State.startMeasure_resumeEligible (k : Nat) (n : State) : (n.startMeasure k).resumeEligible = n.resumeEligible := rfl
@[simp] theorem State.startMeasure_alarmAsserted (k : Nat) (n : State) : (n.startMeasure k).alarmAsserted = n.alarmAsserted := rfl
@[simp] theorem State.startMeasure_intClass (k : Nat) (n : State) : (n.startMeasure k).intClass = n.intClass := rfl
@[simp] theorem State.startMeasure_intArmed (k : Nat) (n : State) : (n.startMeasure k).intArmed = n.intArmed := rfl
@[simp] theorem State.startMeasure_faultCode (k : Nat) (n : State) : (n.startMeasure k).faultCode = n.faultCode := rfl
@[simp] theorem State.startMeasure_dl (k : Nat) (n : State) : (n.startMeasure k).dl = ⟨(k : Int) - 1, true⟩ := rfl
@[simp] theorem State.startMeasure_dly (k : Nat) (n : State) : (n.startMeasure k).dly = n.dly := rfl
@[simp] theorem State.startMeasure_prevS (k : Nat) (n : State) : (n.startMeasure k).prevS = n.prevS := rfl
@[simp] theorem State.startMeasure_te (k : Nat) (n : State) : (n.startMeasure k).te = n.te := rfl
@[simp] theorem State.startMeasure_rom (k : Nat) (n : State) : (n.startMeasure k).rom = n.rom := rfl
@[simp] theorem State.startMeasure_rstQualified (k : Nat) (n : State) : (n.startMeasure k).rstQualified = false := rfl
@[simp] theorem State.startMeasure_rsp (k : Nat) (n : State) : (n.startMeasure k).rsp = n.rsp := rfl
@[simp] theorem State.startMeasure_nv (k : Nat) (n : State) : (n.startMeasure k).nv = n.nv := rfl
@[simp] theorem State.startMeasure_env (k : Nat) (n : State) : (n.startMeasure k).env = n.env := rfl

/-! ### endReset -/

@[simp] theorem State.endReset_cfg (n : State) : n.endReset.cfg = n.cfg := rfl
@[simp] theorem State.endReset_st (n : State) : n.endReset.st = .presenceWait := rfl
@[simp] theorem State.endReset_id (n : State) : n.endReset.id = n.id := rfl
@[simp] theorem State.endReset_awaitingReset (n : State) : n.endReset.awaitingReset = n.awaitingReset := rfl
@[simp] theorem State.endReset_resumeEligible (n : State) : n.endReset.resumeEligible = n.resumeEligible := rfl
@[simp] theorem State.endReset_alarmAsserted (n : State) : n.endReset.alarmAsserted = n.alarmAsserted := rfl
@[simp] theorem State.endReset_intClass (n : State) : n.endReset.intClass = n.intClass := rfl
@[simp] theorem State.endReset_intArmed (n : State) : n.endReset.intArmed = n.intArmed := rfl
@[simp] theorem State.endReset_faultCode (n : State) : n.endReset.faultCode = n.faultCode := rfl
@[simp] theorem State.endReset_dl (n : State) : n.endReset.dl = ⟨-1, false⟩ := rfl
@[simp] theorem State.endReset_dly (n : State) : n.endReset.dly = n.cfg.tPdh := rfl
@[simp] theorem State.endReset_prevS (n : State) : n.endReset.prevS = n.prevS := rfl
@[simp] theorem State.endReset_te (n : State) : n.endReset.te = n.te := rfl
@[simp] theorem State.endReset_rom (n : State) : n.endReset.rom = n.rom := rfl
@[simp] theorem State.endReset_rstQualified (n : State) : n.endReset.rstQualified = false := rfl
@[simp] theorem State.endReset_rsp (n : State) : n.endReset.rsp = n.rsp := rfl
@[simp] theorem State.endReset_nv (n : State) : n.endReset.nv = n.nv := rfl
@[simp] theorem State.endReset_env (n : State) : n.endReset.env = n.env := rfl

/-! ### enterStretch -/

@[simp] theorem State.enterStretch_cfg (w : Int) (n : State) : (n.enterStretch w).cfg = n.cfg := rfl
@[simp] theorem State.enterStretch_st (w : Int) (n : State) : (n.enterStretch w).st = .intStretch := rfl
@[simp] theorem State.enterStretch_id (w : Int) (n : State) : (n.enterStretch w).id = n.id := rfl
@[simp] theorem State.enterStretch_awaitingReset (w : Int) (n : State) : (n.enterStretch w).awaitingReset = n.awaitingReset := rfl
@[simp] theorem State.enterStretch_resumeEligible (w : Int) (n : State) : (n.enterStretch w).resumeEligible = n.resumeEligible := rfl
@[simp] theorem State.enterStretch_alarmAsserted (w : Int) (n : State) : (n.enterStretch w).alarmAsserted = n.alarmAsserted := rfl
@[simp] theorem State.enterStretch_intClass (w : Int) (n : State) : (n.enterStretch w).intClass = 0 := rfl
@[simp] theorem State.enterStretch_intArmed (w : Int) (n : State) : (n.enterStretch w).intArmed = n.intArmed := rfl
@[simp] theorem State.enterStretch_faultCode (w : Int) (n : State) : (n.enterStretch w).faultCode = n.faultCode := rfl
@[simp] theorem State.enterStretch_dl (w : Int) (n : State) : (n.enterStretch w).dl = n.dl := rfl
@[simp] theorem State.enterStretch_dly (w : Int) (n : State) : (n.enterStretch w).dly = ((n.cfg.tIntStretch : Int) - w).toNat := rfl
@[simp] theorem State.enterStretch_prevS (w : Int) (n : State) : (n.enterStretch w).prevS = n.prevS := rfl
@[simp] theorem State.enterStretch_te (w : Int) (n : State) : (n.enterStretch w).te = n.te := rfl
@[simp] theorem State.enterStretch_rom (w : Int) (n : State) : (n.enterStretch w).rom = n.rom := rfl
@[simp] theorem State.enterStretch_rstQualified (w : Int) (n : State) : (n.enterStretch w).rstQualified = true := rfl
@[simp] theorem State.enterStretch_rsp (w : Int) (n : State) : (n.enterStretch w).rsp = n.rsp := rfl
@[simp] theorem State.enterStretch_nv (w : Int) (n : State) : (n.enterStretch w).nv = n.nv := rfl
@[simp] theorem State.enterStretch_env (w : Int) (n : State) : (n.enterStretch w).env = n.env := rfl

/-! ### enterMeasure -/

@[simp] theorem State.enterMeasure_cfg (k : Nat) (q : Bool) (n : State) : (n.enterMeasure k q).cfg = n.cfg := rfl
@[simp] theorem State.enterMeasure_st (k : Nat) (q : Bool) (n : State) : (n.enterMeasure k q).st = .resetMeasure := rfl
@[simp] theorem State.enterMeasure_id (k : Nat) (q : Bool) (n : State) : (n.enterMeasure k q).id = n.id := rfl
@[simp] theorem State.enterMeasure_awaitingReset (k : Nat) (q : Bool) (n : State) : (n.enterMeasure k q).awaitingReset = false := rfl
@[simp] theorem State.enterMeasure_resumeEligible (k : Nat) (q : Bool) (n : State) : (n.enterMeasure k q).resumeEligible = n.resumeEligible := rfl
@[simp] theorem State.enterMeasure_alarmAsserted (k : Nat) (q : Bool) (n : State) : (n.enterMeasure k q).alarmAsserted = n.alarmAsserted := rfl
@[simp] theorem State.enterMeasure_intClass (k : Nat) (q : Bool) (n : State) : (n.enterMeasure k q).intClass = n.intClass := rfl
@[simp] theorem State.enterMeasure_intArmed (k : Nat) (q : Bool) (n : State) : (n.enterMeasure k q).intArmed = n.intArmed := rfl
@[simp] theorem State.enterMeasure_faultCode (k : Nat) (q : Bool) (n : State) : (n.enterMeasure k q).faultCode = n.faultCode := rfl
@[simp] theorem State.enterMeasure_dl (k : Nat) (q : Bool) (n : State) : (n.enterMeasure k q).dl = ⟨(k : Int) - 1, true⟩ := rfl
@[simp] theorem State.enterMeasure_dly (k : Nat) (q : Bool) (n : State) : (n.enterMeasure k q).dly = n.dly := rfl
@[simp] theorem State.enterMeasure_prevS (k : Nat) (q : Bool) (n : State) : (n.enterMeasure k q).prevS = n.prevS := rfl
@[simp] theorem State.enterMeasure_te (k : Nat) (q : Bool) (n : State) : (n.enterMeasure k q).te = n.te := rfl
@[simp] theorem State.enterMeasure_rom (k : Nat) (q : Bool) (n : State) : (n.enterMeasure k q).rom = n.rom := rfl
@[simp] theorem State.enterMeasure_rstQualified (k : Nat) (q : Bool) (n : State) : (n.enterMeasure k q).rstQualified = q := rfl
@[simp] theorem State.enterMeasure_rsp (k : Nat) (q : Bool) (n : State) : (n.enterMeasure k q).rsp = n.rsp := rfl
@[simp] theorem State.enterMeasure_nv (k : Nat) (q : Bool) (n : State) : (n.enterMeasure k q).nv = n.nv := rfl
@[simp] theorem State.enterMeasure_env (k : Nat) (q : Bool) (n : State) : (n.enterMeasure k q).env = n.env := rfl

/-! ### endStretch -/

@[simp] theorem State.endStretch_cfg (n : State) : n.endStretch.cfg = n.cfg := rfl
@[simp] theorem State.endStretch_st (n : State) : n.endStretch.st = .resetMeasure := rfl
@[simp] theorem State.endStretch_id (n : State) : n.endStretch.id = n.id := rfl
@[simp] theorem State.endStretch_awaitingReset (n : State) : n.endStretch.awaitingReset = false := rfl
@[simp] theorem State.endStretch_resumeEligible (n : State) : n.endStretch.resumeEligible = n.resumeEligible := rfl
@[simp] theorem State.endStretch_alarmAsserted (n : State) : n.endStretch.alarmAsserted = n.alarmAsserted := rfl
@[simp] theorem State.endStretch_intClass (n : State) : n.endStretch.intClass = n.intClass := rfl
@[simp] theorem State.endStretch_intArmed (n : State) : n.endStretch.intArmed = n.intArmed := rfl
@[simp] theorem State.endStretch_faultCode (n : State) : n.endStretch.faultCode = n.faultCode := rfl
@[simp] theorem State.endStretch_dl (n : State) : n.endStretch.dl = ⟨(n.cfg.tResetDeadline : Int) - 1, true⟩ := rfl
@[simp] theorem State.endStretch_dly (n : State) : n.endStretch.dly = n.dly := rfl
@[simp] theorem State.endStretch_prevS (n : State) : n.endStretch.prevS = n.prevS := rfl
@[simp] theorem State.endStretch_te (n : State) : n.endStretch.te = n.te := rfl
@[simp] theorem State.endStretch_rom (n : State) : n.endStretch.rom = n.rom := rfl
@[simp] theorem State.endStretch_rstQualified (n : State) : n.endStretch.rstQualified = n.rstQualified := rfl
@[simp] theorem State.endStretch_rsp (n : State) : n.endStretch.rsp = n.rsp := rfl
@[simp] theorem State.endStretch_nv (n : State) : n.endStretch.nv = n.nv := rfl
@[simp] theorem State.endStretch_env (n : State) : n.endStretch.env = n.env := rfl

/-! ### endPulse -/

@[simp] theorem State.endPulse_cfg (n : State) : n.endPulse.cfg = n.cfg := rfl
@[simp] theorem State.endPulse_st (n : State) : n.endPulse.st = .resetMeasure := rfl
@[simp] theorem State.endPulse_id (n : State) : n.endPulse.id = n.id := rfl
@[simp] theorem State.endPulse_awaitingReset (n : State) : n.endPulse.awaitingReset = false := rfl
@[simp] theorem State.endPulse_resumeEligible (n : State) : n.endPulse.resumeEligible = n.resumeEligible := rfl
@[simp] theorem State.endPulse_alarmAsserted (n : State) : n.endPulse.alarmAsserted = n.alarmAsserted := rfl
@[simp] theorem State.endPulse_intClass (n : State) : n.endPulse.intClass = n.intClass := rfl
@[simp] theorem State.endPulse_intArmed (n : State) : n.endPulse.intArmed = n.intArmed := rfl
@[simp] theorem State.endPulse_faultCode (n : State) : n.endPulse.faultCode = n.faultCode := rfl
@[simp] theorem State.endPulse_dl (n : State) : n.endPulse.dl = ⟨(n.cfg.tResetDeadline : Int) - 1, true⟩ := rfl
@[simp] theorem State.endPulse_dly (n : State) : n.endPulse.dly = n.dly := rfl
@[simp] theorem State.endPulse_prevS (n : State) : n.endPulse.prevS = n.prevS := rfl
@[simp] theorem State.endPulse_te (n : State) : n.endPulse.te = n.te := rfl
@[simp] theorem State.endPulse_rom (n : State) : n.endPulse.rom = n.rom := rfl
@[simp] theorem State.endPulse_rstQualified (n : State) : n.endPulse.rstQualified = true := rfl
@[simp] theorem State.endPulse_rsp (n : State) : n.endPulse.rsp = n.rsp := rfl
@[simp] theorem State.endPulse_nv (n : State) : n.endPulse.nv = n.nv := rfl
@[simp] theorem State.endPulse_env (n : State) : n.endPulse.env = n.env := rfl

/-! ### startPresence -/

@[simp] theorem State.startPresence_cfg (n : State) : n.startPresence.cfg = n.cfg := rfl
@[simp] theorem State.startPresence_st (n : State) : n.startPresence.st = .presenceLow := rfl
@[simp] theorem State.startPresence_id (n : State) : n.startPresence.id = n.id := rfl
@[simp] theorem State.startPresence_awaitingReset (n : State) : n.startPresence.awaitingReset = n.awaitingReset := rfl
@[simp] theorem State.startPresence_resumeEligible (n : State) : n.startPresence.resumeEligible = n.resumeEligible := rfl
@[simp] theorem State.startPresence_alarmAsserted (n : State) : n.startPresence.alarmAsserted = n.alarmAsserted := rfl
@[simp] theorem State.startPresence_intClass (n : State) : n.startPresence.intClass = n.intClass := rfl
@[simp] theorem State.startPresence_intArmed (n : State) : n.startPresence.intArmed = n.intArmed := rfl
@[simp] theorem State.startPresence_faultCode (n : State) : n.startPresence.faultCode = n.faultCode := rfl
@[simp] theorem State.startPresence_dl (n : State) : n.startPresence.dl = n.dl := rfl
@[simp] theorem State.startPresence_dly (n : State) : n.startPresence.dly = n.cfg.tPdl := rfl
@[simp] theorem State.startPresence_prevS (n : State) : n.startPresence.prevS = n.prevS := rfl
@[simp] theorem State.startPresence_te (n : State) : n.startPresence.te = n.te := rfl
@[simp] theorem State.startPresence_rom (n : State) : n.startPresence.rom = n.rom := rfl
@[simp] theorem State.startPresence_rstQualified (n : State) : n.startPresence.rstQualified = n.rstQualified := rfl
@[simp] theorem State.startPresence_rsp (n : State) : n.startPresence.rsp = n.rsp := rfl
@[simp] theorem State.startPresence_nv (n : State) : n.startPresence.nv = n.nv := rfl
@[simp] theorem State.startPresence_env (n : State) : n.startPresence.env = n.env := rfl

/-! ### startCommand -/

@[simp] theorem State.startCommand_cfg (n : State) : n.startCommand.cfg = n.cfg := rfl
@[simp] theorem State.startCommand_st (n : State) : n.startCommand.st = .romCmd := rfl
@[simp] theorem State.startCommand_id (n : State) : n.startCommand.id = n.id := rfl
@[simp] theorem State.startCommand_awaitingReset (n : State) : n.startCommand.awaitingReset = n.awaitingReset := rfl
@[simp] theorem State.startCommand_resumeEligible (n : State) : n.startCommand.resumeEligible = n.resumeEligible := rfl
@[simp] theorem State.startCommand_alarmAsserted (n : State) : n.startCommand.alarmAsserted = n.alarmAsserted := rfl
@[simp] theorem State.startCommand_intClass (n : State) : n.startCommand.intClass = n.intClass := rfl
@[simp] theorem State.startCommand_intArmed (n : State) : n.startCommand.intArmed = true := rfl
@[simp] theorem State.startCommand_faultCode (n : State) : n.startCommand.faultCode = n.faultCode := rfl
@[simp] theorem State.startCommand_dl (n : State) : n.startCommand.dl = ⟨(n.cfg.tSlotWait : Int) - 1, true⟩ := rfl
@[simp] theorem State.startCommand_dly (n : State) : n.startCommand.dly = n.dly := rfl
@[simp] theorem State.startCommand_prevS (n : State) : n.startCommand.prevS = n.prevS := rfl
@[simp] theorem State.startCommand_te (n : State) : n.startCommand.te = { setupSlot (beginTe .recvByte 0 .rom n.te) with phase := .start } := rfl
@[simp] theorem State.startCommand_rom (n : State) : n.startCommand.rom = n.rom := rfl
@[simp] theorem State.startCommand_rstQualified (n : State) : n.startCommand.rstQualified = n.rstQualified := rfl
@[simp] theorem State.startCommand_rsp (n : State) : n.startCommand.rsp = n.rsp := rfl
@[simp] theorem State.startCommand_nv (n : State) : n.startCommand.nv = n.nv := rfl
@[simp] theorem State.startCommand_env (n : State) : n.startCommand.env = n.env := rfl

/-! ### select -/

@[simp] theorem State.select_cfg (n : State) : n.select.cfg = n.cfg := rfl
@[simp] theorem State.select_st (n : State) : n.select.st = .device := rfl
@[simp] theorem State.select_id (n : State) : n.select.id = n.id := rfl
@[simp] theorem State.select_awaitingReset (n : State) : n.select.awaitingReset = n.awaitingReset := rfl
@[simp] theorem State.select_resumeEligible (n : State) : n.select.resumeEligible = n.resumeEligible := rfl
@[simp] theorem State.select_alarmAsserted (n : State) : n.select.alarmAsserted = n.alarmAsserted := rfl
@[simp] theorem State.select_intClass (n : State) : n.select.intClass = n.intClass := rfl
@[simp] theorem State.select_intArmed (n : State) : n.select.intArmed = n.intArmed := rfl
@[simp] theorem State.select_faultCode (n : State) : n.select.faultCode = n.faultCode := rfl
@[simp] theorem State.select_dl (n : State) : n.select.dl = ⟨-1, false⟩ := rfl
@[simp] theorem State.select_dly (n : State) : n.select.dly = n.dly := rfl
@[simp] theorem State.select_prevS (n : State) : n.select.prevS = n.prevS := rfl
@[simp] theorem State.select_te (n : State) : n.select.te = { n.te with phase := .idle } := rfl
@[simp] theorem State.select_rom (n : State) : n.select.rom = n.rom := rfl
@[simp] theorem State.select_rstQualified (n : State) : n.select.rstQualified = n.rstQualified := rfl
@[simp] theorem State.select_rsp (n : State) : n.select.rsp = n.rsp := rfl
@[simp] theorem State.select_nv (n : State) : n.select.nv = n.nv := rfl
@[simp] theorem State.select_env (n : State) : n.select.env = n.env := rfl

/-! ### notSelected -/

@[simp] theorem State.notSelected_cfg (n : State) : n.notSelected.cfg = n.cfg := rfl
@[simp] theorem State.notSelected_st (n : State) : n.notSelected.st = .idle := rfl
@[simp] theorem State.notSelected_id (n : State) : n.notSelected.id = n.id := rfl
@[simp] theorem State.notSelected_awaitingReset (n : State) : n.notSelected.awaitingReset = true := rfl
@[simp] theorem State.notSelected_resumeEligible (n : State) : n.notSelected.resumeEligible = n.resumeEligible := rfl
@[simp] theorem State.notSelected_alarmAsserted (n : State) : n.notSelected.alarmAsserted = n.alarmAsserted := rfl
@[simp] theorem State.notSelected_intClass (n : State) : n.notSelected.intClass = n.intClass := rfl
@[simp] theorem State.notSelected_intArmed (n : State) : n.notSelected.intArmed = n.intArmed := rfl
@[simp] theorem State.notSelected_faultCode (n : State) : n.notSelected.faultCode = n.faultCode := rfl
@[simp] theorem State.notSelected_dl (n : State) : n.notSelected.dl = ⟨-1, false⟩ := rfl
@[simp] theorem State.notSelected_dly (n : State) : n.notSelected.dly = n.dly := rfl
@[simp] theorem State.notSelected_prevS (n : State) : n.notSelected.prevS = n.prevS := rfl
@[simp] theorem State.notSelected_te (n : State) : n.notSelected.te = { n.te with phase := .idle } := rfl
@[simp] theorem State.notSelected_rom (n : State) : n.notSelected.rom = n.rom := rfl
@[simp] theorem State.notSelected_rstQualified (n : State) : n.notSelected.rstQualified = n.rstQualified := rfl
@[simp] theorem State.notSelected_rsp (n : State) : n.notSelected.rsp = n.rsp := rfl
@[simp] theorem State.notSelected_nv (n : State) : n.notSelected.nv = n.nv := rfl
@[simp] theorem State.notSelected_env (n : State) : n.notSelected.env = n.env := rfl

/-! ### receiveCommand -/

@[simp] theorem State.receiveCommand_cfg (c : Byte) (n : State) : (n.receiveCommand c).cfg = n.cfg := rfl
@[simp] theorem State.receiveCommand_st (c : Byte) (n : State) : (n.receiveCommand c).st = n.st := rfl
@[simp] theorem State.receiveCommand_id (c : Byte) (n : State) : (n.receiveCommand c).id = n.id := rfl
@[simp] theorem State.receiveCommand_awaitingReset (c : Byte) (n : State) : (n.receiveCommand c).awaitingReset = n.awaitingReset := rfl
@[simp] theorem State.receiveCommand_resumeEligible (c : Byte) (n : State) : (n.receiveCommand c).resumeEligible = if c = 0xA5 then n.resumeEligible else false := rfl
@[simp] theorem State.receiveCommand_alarmAsserted (c : Byte) (n : State) : (n.receiveCommand c).alarmAsserted = n.alarmAsserted := rfl
@[simp] theorem State.receiveCommand_intClass (c : Byte) (n : State) : (n.receiveCommand c).intClass = n.intClass := rfl
@[simp] theorem State.receiveCommand_intArmed (c : Byte) (n : State) : (n.receiveCommand c).intArmed = n.intArmed := rfl
@[simp] theorem State.receiveCommand_faultCode (c : Byte) (n : State) : (n.receiveCommand c).faultCode = n.faultCode := rfl
@[simp] theorem State.receiveCommand_dl (c : Byte) (n : State) : (n.receiveCommand c).dl = n.dl := rfl
@[simp] theorem State.receiveCommand_dly (c : Byte) (n : State) : (n.receiveCommand c).dly = n.dly := rfl
@[simp] theorem State.receiveCommand_prevS (c : Byte) (n : State) : (n.receiveCommand c).prevS = n.prevS := rfl
@[simp] theorem State.receiveCommand_te (c : Byte) (n : State) : (n.receiveCommand c).te = n.te := rfl
@[simp] theorem State.receiveCommand_rom (c : Byte) (n : State) : (n.receiveCommand c).rom = { n.rom with cmd := c, idx := 0 } := rfl
@[simp] theorem State.receiveCommand_rstQualified (c : Byte) (n : State) : (n.receiveCommand c).rstQualified = n.rstQualified := rfl
@[simp] theorem State.receiveCommand_rsp (c : Byte) (n : State) : (n.receiveCommand c).rsp = n.rsp := rfl
@[simp] theorem State.receiveCommand_nv (c : Byte) (n : State) : (n.receiveCommand c).nv = n.nv := rfl
@[simp] theorem State.receiveCommand_env (c : Byte) (n : State) : (n.receiveCommand c).env = n.env := rfl

/-! ### startRom -/

@[simp] theorem State.startRom_cfg (op : TransferOp) (data : Byte) (n : State) : (n.startRom op data).cfg = n.cfg := rfl
@[simp] theorem State.startRom_st (op : TransferOp) (data : Byte) (n : State) : (n.startRom op data).st = .romExec := rfl
@[simp] theorem State.startRom_id (op : TransferOp) (data : Byte) (n : State) : (n.startRom op data).id = n.id := rfl
@[simp] theorem State.startRom_awaitingReset (op : TransferOp) (data : Byte) (n : State) : (n.startRom op data).awaitingReset = n.awaitingReset := rfl
@[simp] theorem State.startRom_resumeEligible (op : TransferOp) (data : Byte) (n : State) : (n.startRom op data).resumeEligible = n.resumeEligible := rfl
@[simp] theorem State.startRom_alarmAsserted (op : TransferOp) (data : Byte) (n : State) : (n.startRom op data).alarmAsserted = n.alarmAsserted := rfl
@[simp] theorem State.startRom_intClass (op : TransferOp) (data : Byte) (n : State) : (n.startRom op data).intClass = n.intClass := rfl
@[simp] theorem State.startRom_intArmed (op : TransferOp) (data : Byte) (n : State) : (n.startRom op data).intArmed = true := rfl
@[simp] theorem State.startRom_faultCode (op : TransferOp) (data : Byte) (n : State) : (n.startRom op data).faultCode = n.faultCode := rfl
@[simp] theorem State.startRom_dl (op : TransferOp) (data : Byte) (n : State) : (n.startRom op data).dl = ⟨(n.cfg.tSlotWait : Int) - 1, true⟩ := rfl
@[simp] theorem State.startRom_dly (op : TransferOp) (data : Byte) (n : State) : (n.startRom op data).dly = n.dly := rfl
@[simp] theorem State.startRom_prevS (op : TransferOp) (data : Byte) (n : State) : (n.startRom op data).prevS = n.prevS := rfl
@[simp] theorem State.startRom_te (op : TransferOp) (data : Byte) (n : State) : (n.startRom op data).te = { setupSlot (beginTe op data .rom n.te) with phase := .start } := rfl
@[simp] theorem State.startRom_rom (op : TransferOp) (data : Byte) (n : State) : (n.startRom op data).rom = n.rom := rfl
@[simp] theorem State.startRom_rstQualified (op : TransferOp) (data : Byte) (n : State) : (n.startRom op data).rstQualified = n.rstQualified := rfl
@[simp] theorem State.startRom_rsp (op : TransferOp) (data : Byte) (n : State) : (n.startRom op data).rsp = n.rsp := rfl
@[simp] theorem State.startRom_nv (op : TransferOp) (data : Byte) (n : State) : (n.startRom op data).nv = n.nv := rfl
@[simp] theorem State.startRom_env (op : TransferOp) (data : Byte) (n : State) : (n.startRom op data).env = n.env := rfl

/-! ### nextIdByte -/

@[simp] theorem State.nextIdByte_cfg (op : TransferOp) (n : State) : (n.nextIdByte op).cfg = n.cfg := rfl
@[simp] theorem State.nextIdByte_st (op : TransferOp) (n : State) : (n.nextIdByte op).st = n.st := rfl
@[simp] theorem State.nextIdByte_id (op : TransferOp) (n : State) : (n.nextIdByte op).id = n.id := rfl
@[simp] theorem State.nextIdByte_awaitingReset (op : TransferOp) (n : State) : (n.nextIdByte op).awaitingReset = n.awaitingReset := rfl
@[simp] theorem State.nextIdByte_resumeEligible (op : TransferOp) (n : State) : (n.nextIdByte op).resumeEligible = n.resumeEligible := rfl
@[simp] theorem State.nextIdByte_alarmAsserted (op : TransferOp) (n : State) : (n.nextIdByte op).alarmAsserted = n.alarmAsserted := rfl
@[simp] theorem State.nextIdByte_intClass (op : TransferOp) (n : State) : (n.nextIdByte op).intClass = n.intClass := rfl
@[simp] theorem State.nextIdByte_intArmed (op : TransferOp) (n : State) : (n.nextIdByte op).intArmed = true := rfl
@[simp] theorem State.nextIdByte_faultCode (op : TransferOp) (n : State) : (n.nextIdByte op).faultCode = n.faultCode := rfl
@[simp] theorem State.nextIdByte_dl (op : TransferOp) (n : State) : (n.nextIdByte op).dl = ⟨(n.cfg.tSlotWait : Int) - 1, true⟩ := rfl
@[simp] theorem State.nextIdByte_dly (op : TransferOp) (n : State) : (n.nextIdByte op).dly = n.dly := rfl
@[simp] theorem State.nextIdByte_prevS (op : TransferOp) (n : State) : (n.nextIdByte op).prevS = n.prevS := rfl
@[simp] theorem State.nextIdByte_te (op : TransferOp) (n : State) : (n.nextIdByte op).te = { setupSlot (beginTe op (byteAt n.id (n.rom.idx + 1)) .rom n.te) with phase := .start } := rfl
@[simp] theorem State.nextIdByte_rom (op : TransferOp) (n : State) : (n.nextIdByte op).rom = { n.rom with idx := n.rom.idx + 1 } := rfl
@[simp] theorem State.nextIdByte_rstQualified (op : TransferOp) (n : State) : (n.nextIdByte op).rstQualified = n.rstQualified := rfl
@[simp] theorem State.nextIdByte_rsp (op : TransferOp) (n : State) : (n.nextIdByte op).rsp = n.rsp := rfl
@[simp] theorem State.nextIdByte_nv (op : TransferOp) (n : State) : (n.nextIdByte op).nv = n.nv := rfl
@[simp] theorem State.nextIdByte_env (op : TransferOp) (n : State) : (n.nextIdByte op).env = n.env := rfl

/-! ### storeRx -/

@[simp] theorem State.storeRx_cfg (n : State) : n.storeRx.cfg = n.cfg := rfl
@[simp] theorem State.storeRx_st (n : State) : n.storeRx.st = n.st := rfl
@[simp] theorem State.storeRx_id (n : State) : n.storeRx.id = n.id := rfl
@[simp] theorem State.storeRx_awaitingReset (n : State) : n.storeRx.awaitingReset = n.awaitingReset := rfl
@[simp] theorem State.storeRx_resumeEligible (n : State) : n.storeRx.resumeEligible = n.resumeEligible := rfl
@[simp] theorem State.storeRx_alarmAsserted (n : State) : n.storeRx.alarmAsserted = n.alarmAsserted := rfl
@[simp] theorem State.storeRx_intClass (n : State) : n.storeRx.intClass = n.intClass := rfl
@[simp] theorem State.storeRx_intArmed (n : State) : n.storeRx.intArmed = n.intArmed := rfl
@[simp] theorem State.storeRx_faultCode (n : State) : n.storeRx.faultCode = n.faultCode := rfl
@[simp] theorem State.storeRx_dl (n : State) : n.storeRx.dl = n.dl := rfl
@[simp] theorem State.storeRx_dly (n : State) : n.storeRx.dly = n.dly := rfl
@[simp] theorem State.storeRx_prevS (n : State) : n.storeRx.prevS = n.prevS := rfl
@[simp] theorem State.storeRx_te (n : State) : n.storeRx.te = n.te := rfl
@[simp] theorem State.storeRx_rom (n : State) : n.storeRx.rom = { n.rom with rxb := setByteAt n.rom.rxb n.rom.idx n.te.sr } := rfl
@[simp] theorem State.storeRx_rstQualified (n : State) : n.storeRx.rstQualified = n.rstQualified := rfl
@[simp] theorem State.storeRx_rsp (n : State) : n.storeRx.rsp = n.rsp := rfl
@[simp] theorem State.storeRx_nv (n : State) : n.storeRx.nv = n.nv := rfl
@[simp] theorem State.storeRx_env (n : State) : n.storeRx.env = n.env := rfl

/-! ### nextRxByte -/

@[simp] theorem State.nextRxByte_cfg (n : State) : n.nextRxByte.cfg = n.cfg := rfl
@[simp] theorem State.nextRxByte_st (n : State) : n.nextRxByte.st = n.st := rfl
@[simp] theorem State.nextRxByte_id (n : State) : n.nextRxByte.id = n.id := rfl
@[simp] theorem State.nextRxByte_awaitingReset (n : State) : n.nextRxByte.awaitingReset = n.awaitingReset := rfl
@[simp] theorem State.nextRxByte_resumeEligible (n : State) : n.nextRxByte.resumeEligible = n.resumeEligible := rfl
@[simp] theorem State.nextRxByte_alarmAsserted (n : State) : n.nextRxByte.alarmAsserted = n.alarmAsserted := rfl
@[simp] theorem State.nextRxByte_intClass (n : State) : n.nextRxByte.intClass = n.intClass := rfl
@[simp] theorem State.nextRxByte_intArmed (n : State) : n.nextRxByte.intArmed = true := rfl
@[simp] theorem State.nextRxByte_faultCode (n : State) : n.nextRxByte.faultCode = n.faultCode := rfl
@[simp] theorem State.nextRxByte_dl (n : State) : n.nextRxByte.dl = ⟨(n.cfg.tSlotWait : Int) - 1, true⟩ := rfl
@[simp] theorem State.nextRxByte_dly (n : State) : n.nextRxByte.dly = n.dly := rfl
@[simp] theorem State.nextRxByte_prevS (n : State) : n.nextRxByte.prevS = n.prevS := rfl
@[simp] theorem State.nextRxByte_te (n : State) : n.nextRxByte.te = { setupSlot (beginTe .recvByte 0 .rom n.te) with phase := .start } := rfl
@[simp] theorem State.nextRxByte_rom (n : State) : n.nextRxByte.rom = { n.rom with idx := n.rom.idx + 1 } := rfl
@[simp] theorem State.nextRxByte_rstQualified (n : State) : n.nextRxByte.rstQualified = n.rstQualified := rfl
@[simp] theorem State.nextRxByte_rsp (n : State) : n.nextRxByte.rsp = n.rsp := rfl
@[simp] theorem State.nextRxByte_nv (n : State) : n.nextRxByte.nv = n.nv := rfl
@[simp] theorem State.nextRxByte_env (n : State) : n.nextRxByte.env = n.env := rfl

/-! ### adoptIdentity -/

@[simp] theorem State.adoptIdentity_cfg (n : State) : n.adoptIdentity.cfg = n.cfg := rfl
@[simp] theorem State.adoptIdentity_st (n : State) : n.adoptIdentity.st = n.st := rfl
@[simp] theorem State.adoptIdentity_awaitingReset (n : State) : n.adoptIdentity.awaitingReset = n.awaitingReset := rfl
@[simp] theorem State.adoptIdentity_resumeEligible (n : State) : n.adoptIdentity.resumeEligible = n.resumeEligible := rfl
@[simp] theorem State.adoptIdentity_alarmAsserted (n : State) : n.adoptIdentity.alarmAsserted = n.alarmAsserted := rfl
@[simp] theorem State.adoptIdentity_intClass (n : State) : n.adoptIdentity.intClass = n.intClass := rfl
@[simp] theorem State.adoptIdentity_intArmed (n : State) : n.adoptIdentity.intArmed = n.intArmed := rfl
@[simp] theorem State.adoptIdentity_faultCode (n : State) : n.adoptIdentity.faultCode = n.faultCode := rfl
@[simp] theorem State.adoptIdentity_dl (n : State) : n.adoptIdentity.dl = n.dl := rfl
@[simp] theorem State.adoptIdentity_dly (n : State) : n.adoptIdentity.dly = n.dly := rfl
@[simp] theorem State.adoptIdentity_prevS (n : State) : n.adoptIdentity.prevS = n.prevS := rfl
@[simp] theorem State.adoptIdentity_te (n : State) : n.adoptIdentity.te = n.te := rfl
@[simp] theorem State.adoptIdentity_rom (n : State) : n.adoptIdentity.rom = n.rom := rfl
@[simp] theorem State.adoptIdentity_rstQualified (n : State) : n.adoptIdentity.rstQualified = n.rstQualified := rfl
@[simp] theorem State.adoptIdentity_rsp (n : State) : n.adoptIdentity.rsp = n.rsp := rfl
@[simp] theorem State.adoptIdentity_nv (n : State) : n.adoptIdentity.nv = ⟨true, packSerial n.rom.rxb⟩ := rfl
@[simp] theorem State.adoptIdentity_env (n : State) : n.adoptIdentity.env = n.env := rfl

/-! ### startEcho -/

@[simp] theorem State.startEcho_cfg (n : State) : n.startEcho.cfg = n.cfg := rfl
@[simp] theorem State.startEcho_st (n : State) : n.startEcho.st = n.st := rfl
@[simp] theorem State.startEcho_id (n : State) : n.startEcho.id = n.id := rfl
@[simp] theorem State.startEcho_awaitingReset (n : State) : n.startEcho.awaitingReset = n.awaitingReset := rfl
@[simp] theorem State.startEcho_resumeEligible (n : State) : n.startEcho.resumeEligible = n.resumeEligible := rfl
@[simp] theorem State.startEcho_alarmAsserted (n : State) : n.startEcho.alarmAsserted = n.alarmAsserted := rfl
@[simp] theorem State.startEcho_intClass (n : State) : n.startEcho.intClass = n.intClass := rfl
@[simp] theorem State.startEcho_intArmed (n : State) : n.startEcho.intArmed = true := rfl
@[simp] theorem State.startEcho_faultCode (n : State) : n.startEcho.faultCode = n.faultCode := rfl
@[simp] theorem State.startEcho_dl (n : State) : n.startEcho.dl = ⟨(n.cfg.tSlotWait : Int) - 1, true⟩ := rfl
@[simp] theorem State.startEcho_dly (n : State) : n.startEcho.dly = n.dly := rfl
@[simp] theorem State.startEcho_prevS (n : State) : n.startEcho.prevS = n.prevS := rfl
@[simp] theorem State.startEcho_te (n : State) : n.startEcho.te = { setupSlot (beginTe .sendByte n.id[0] .rom n.te) with phase := .start } := rfl
@[simp] theorem State.startEcho_rom (n : State) : n.startEcho.rom = { n.rom with step := .tx, idx := 0 } := rfl
@[simp] theorem State.startEcho_rstQualified (n : State) : n.startEcho.rstQualified = n.rstQualified := rfl
@[simp] theorem State.startEcho_rsp (n : State) : n.startEcho.rsp = n.rsp := rfl
@[simp] theorem State.startEcho_nv (n : State) : n.startEcho.nv = n.nv := rfl
@[simp] theorem State.startEcho_env (n : State) : n.startEcho.env = n.env := rfl

/-! ### withInputs -/

@[simp] theorem State.withInputs_cfg (s : State) (x : Inputs) : (s.withInputs x).cfg = s.cfg := rfl
@[simp] theorem State.withInputs_st (s : State) (x : Inputs) : (s.withInputs x).st = s.st := rfl
@[simp] theorem State.withInputs_id (s : State) (x : Inputs) : (s.withInputs x).id = s.id := rfl
@[simp] theorem State.withInputs_awaitingReset (s : State) (x : Inputs) : (s.withInputs x).awaitingReset = s.awaitingReset := rfl
@[simp] theorem State.withInputs_resumeEligible (s : State) (x : Inputs) : (s.withInputs x).resumeEligible = s.resumeEligible := rfl
@[simp] theorem State.withInputs_alarmAsserted (s : State) (x : Inputs) : (s.withInputs x).alarmAsserted = s.alarmAsserted := rfl
@[simp] theorem State.withInputs_intClass (s : State) (x : Inputs) : (s.withInputs x).intClass = s.intClass := rfl
@[simp] theorem State.withInputs_intArmed (s : State) (x : Inputs) : (s.withInputs x).intArmed = s.intArmed := rfl
@[simp] theorem State.withInputs_faultCode (s : State) (x : Inputs) : (s.withInputs x).faultCode = s.faultCode := rfl
@[simp] theorem State.withInputs_dl (s : State) (x : Inputs) : (s.withInputs x).dl = s.dl := rfl
@[simp] theorem State.withInputs_dly (s : State) (x : Inputs) : (s.withInputs x).dly = s.dly := rfl
@[simp] theorem State.withInputs_prevS (s : State) (x : Inputs) : (s.withInputs x).prevS = s.prevS := rfl
@[simp] theorem State.withInputs_te (s : State) (x : Inputs) : (s.withInputs x).te = s.te := rfl
@[simp] theorem State.withInputs_rom (s : State) (x : Inputs) : (s.withInputs x).rom = s.rom := rfl
@[simp] theorem State.withInputs_rstQualified (s : State) (x : Inputs) : (s.withInputs x).rstQualified = s.rstQualified := rfl
@[simp] theorem State.withInputs_rsp (s : State) (x : Inputs) : (s.withInputs x).rsp = s.rsp := rfl
@[simp] theorem State.withInputs_nv (s : State) (x : Inputs) : (s.withInputs x).nv = s.nv := rfl
@[simp] theorem State.withInputs_env (s : State) (x : Inputs) : (s.withInputs x).env = { s.env with script := x :: s.env.script.tail } := rfl

/-! ### The transfer engine's registers under `setup_slot` -/

@[simp] theorem setupSlot_phase (te : TransferEngine) : (setupSlot te).phase = te.phase := by
  unfold setupSlot; split <;> rfl
@[simp] theorem setupSlot_op (te : TransferEngine) : (setupSlot te).op = te.op := by
  unfold setupSlot; split <;> rfl
@[simp] theorem setupSlot_client (te : TransferEngine) : (setupSlot te).client = te.client := by
  unfold setupSlot; split <;> rfl
@[simp] theorem setupSlot_sr (te : TransferEngine) : (setupSlot te).sr = te.sr := by
  unfold setupSlot; split <;> rfl
@[simp] theorem setupSlot_cnt (te : TransferEngine) : (setupSlot te).cnt = te.cnt := by
  unfold setupSlot; split <;> rfl
@[simp] theorem setupSlot_tri (te : TransferEngine) : (setupSlot te).tri = te.tri := by
  unfold setupSlot; split <;> rfl
@[simp] theorem setupSlot_d (te : TransferEngine) : (setupSlot te).d = te.d := by
  unfold setupSlot; split <;> rfl

/-! ### The input ports -/

@[simp] theorem State.withInputs_inp (s : State) (x : Inputs) : (s.withInputs x).inp = x := rfl
theorem State.inp_congr {s t : State} (h : s.env = t.env) : s.inp = t.inp := by simp [State.inp, State.inputAt, h]
@[simp] theorem State.beginTick_inp (s : State) : s.beginTick.inp = s.inp := rfl

end Sys2Proof.Machine
end

