-- ==== Sys2Proof/Laws/Step.lean ====
section
/-! SUPPORT. What each shared operation of a tick can do, said once: a proof about `step` cites these and does not unfold
the engine. -/

namespace Sys2Proof.Machine

/-- No meaning stops (R295). -/
theorem exec_total (i : Instr) (s : State) : ∃ t, exec i s = .next t := by
  cases i <;> exact ⟨_, rfl⟩

theorem andThen_next {o : Host.Outcome State Fault Refusal} {f : State → Host.Outcome State Fault Refusal} {t : State}
    (h : andThen o f = .next t) : ∃ n, o = .next n ∧ f n = .next t := by
  cases o with
  | next n => exact ⟨n, rfl, h⟩
  | fault r => cases h
  | refused r => cases h

/-! ### The step -/

theorem step_blockReset {s : State} (hv : s.cfg.valid = true) (hr : s.inp.rstN = false) :
    step s = .next s.blockReset := by
  simp [step, tick, hv, hr]

theorem step_run {s : State} (hv : s.cfg.valid = true) (hr : s.inp.rstN = true) : step s = runTick s := by
  simp [step, tick, hv, hr]

theorem step_badConfiguration {s : State} (hv : s.cfg.valid = false) : step s = .refused .badConfiguration := by
  simp [step, tick, hv]

/-- Everything a step can do when it answers a next state. -/
theorem step_cases {s t : State} (h : step s = .next t) :
    s.cfg.valid = true ∧
      ((s.inp.rstN = false ∧ t = s.blockReset) ∨
       (s.inp.rstN = true ∧ ∃ n m, requestTick s s.beginTick = .next n ∧ engineTick s n = .next m ∧ t = s.endTick m)) := by
  by_cases hv : s.cfg.valid = true
  · refine ⟨hv, ?_⟩
    by_cases hr : s.inp.rstN = true
    · rw [step_run hv hr] at h
      obtain ⟨n, hn, h⟩ := andThen_next h
      obtain ⟨m, hm, h⟩ := andThen_next h
      exact .inr ⟨hr, n, m, hn, hm, by simpa using h.symm⟩
    · have hr : s.inp.rstN = false := by simpa using hr
      rw [step_blockReset hv hr] at h
      exact .inl ⟨hr, by simpa using h.symm⟩
  · rw [step_badConfiguration (by simpa using hv)] at h
    cases h

/-! ### Requests -/

/-- Everything a request can do (R261, R263, R264). -/
theorem request_cases (op : Option TransferOp) (data : Byte) (s : State) :
    (s.st ≠ .device ∧ s.request op data = s.respond .refused 0) ∨
    (s.st = .device ∧ s.te.phase ≠ .idle ∧ s.request op data = s) ∨
    (s.st = .device ∧ s.te.phase = .idle ∧ (s.inp.devEnd = true ∨ op = none) ∧
      s.request op data = s.respond .refused 0) ∨
    (s.st = .device ∧ s.te.phase = .idle ∧ s.inp.devEnd = false ∧ ∃ o, op = some o ∧
      s.request op data = s.teBegin o data .dev) := by
  by_cases h1 : s.st = .device
  · by_cases h2 : s.te.phase = .idle
    · by_cases h3 : s.inp.devEnd = true
      · exact .inr (.inr (.inl ⟨h1, h2, .inl h3, by simp [State.request, h1, h2, h3]⟩))
      · have h3 : s.inp.devEnd = false := by simpa using h3
        cases op with
        | none => exact .inr (.inr (.inl ⟨h1, h2, .inr rfl, by simp [State.request, h1, h2, h3]⟩))
        | some o => exact .inr (.inr (.inr ⟨h1, h2, h3, o, rfl, by simp [State.request, h1, h2, h3]⟩))
    · exact .inr (.inl ⟨h1, h2, by simp [State.request, h1, h2]⟩)
  · exact .inl ⟨h1, by simp [State.request, h1]⟩

/-- A transfer request acts as `State.request` of its operation and operand. -/
theorem exec_xreq (op : BitVec 3) (data : Byte) (s : State) :
    exec (decodeXreq op data) s =
      .next (s.request ((decodeXreq op data).transfer.map Prod.fst)
        (match (decodeXreq op data).transfer with | some (_, d) => d | none => data)) := by
  unfold decodeXreq
  split <;> try rfl
  split <;> rfl

/-- Everything the device layer's request can do at a tick. -/
theorem requestTick_cases {s n t : State} (h : requestTick s n = .next t) :
    (t = n ∧ (s.inp.xreqValid = true → n.st = .device ∧ n.te.phase ≠ .idle)) ∨
    (s.inp.xreqValid = true ∧ t = n.respond .refused 0 ∧ ¬(n.st = .device ∧ n.te.phase ≠ .idle)) ∨
    (s.inp.xreqValid = true ∧ n.st = .device ∧ n.te.phase = .idle ∧ n.inp.devEnd = false ∧
      ∃ op data, t = n.teBegin op data .dev) := by
  unfold requestTick State.requested at h
  by_cases hx : s.inp.xreqValid = true
  · rw [if_pos hx] at h
    dsimp only at h
    rw [exec_xreq] at h
    injection h with h
    subst h
    rcases request_cases ((decodeXreq s.inp.xreqOp s.inp.xreqData).transfer.map Prod.fst)
      (match (decodeXreq s.inp.xreqOp s.inp.xreqData).transfer with | some (_, d) => d | none => s.inp.xreqData) n with
      ⟨h1, e⟩ | ⟨h1, h2, e⟩ | ⟨h1, h2, _, e⟩ | ⟨h1, h2, h3, o, _, e⟩
    · exact .inr (.inl ⟨hx, e, fun h => h1 h.1⟩)
    · exact .inl ⟨e, fun _ => ⟨h1, h2⟩⟩
    · exact .inr (.inl ⟨hx, e, fun h => h.2 h2⟩)
    · exact .inr (.inr ⟨hx, h1, h2, h3, o, _, e⟩)
  · rw [if_neg hx] at h
    injection h with h
    exact .inl ⟨h.symm, fun hc => absurd hc hx⟩

theorem requestTick_total (s n : State) : ∃ t, requestTick s n = .next t := by
  unfold requestTick
  split
  · exact ⟨_, rfl⟩
  · exact exec_total _ _

/-! ### The engine states -/

/-- Everything a tick of IDLE can do (R201, R202, R208). -/
theorem idleTick_cases (s n : State) :
    (s.cfg.hasSleep = false ∧ s.edgeFall = true ∧ idleTick s n = n.startMeasure n.cfg.tResetDeadline) ∨
    (s.cfg.hasSleep = true ∧ s.inp.wake = true ∧ s.lineS = false ∧
      idleTick s n = n.startMeasure (n.cfg.tResetDeadline - n.cfg.tWakeComp)) ∨
    (s.cfg.hasSleep = true ∧ s.inp.wake = true ∧ s.lineS = true ∧ idleTick s n = n.raiseFault .externallyInterrupted) ∨
    (s.class2Pending = true ∧ (s.cfg.hasSleep = false → s.edgeFall = false) ∧ (s.cfg.hasSleep = true → s.inp.wake = false) ∧
      idleTick s n = n.enterIntPulse) ∨
    (s.class2Pending = false ∧ (s.cfg.hasSleep = false → s.edgeFall = false) ∧ (s.cfg.hasSleep = true → s.inp.wake = false) ∧
      idleTick s n = n) := by
  unfold idleTick idleAsleep idleAwake idleQuiet
  rcases Bool.eq_false_or_eq_true s.cfg.hasSleep with a | a <;> rcases Bool.eq_false_or_eq_true s.inp.wake with b | b <;>
    rcases Bool.eq_false_or_eq_true s.lineS with c | c <;> rcases Bool.eq_false_or_eq_true s.edgeFall with d | d <;>
    rcases Bool.eq_false_or_eq_true s.class2Pending with e | e <;> simp [a, b, c, d, e]

/-- Everything a tick of RESET_MEASURE can do (R204, R205, R206). -/
theorem resetMeasureTick_cases (s n : State) :
    (s.lineS = true ∧ (s.rstQualified = true ∨ (s.cfg.tResetMin : Int) ≤ s.resetWidth) ∧
      resetMeasureTick s n = n.endReset) ∨
    (s.lineS = true ∧ s.rstQualified = false ∧ s.resetWidth < (s.cfg.tResetMin : Int) ∧
      resetMeasureTick s n = n.raiseFault .resetTooShort) ∨
    (s.lineS = false ∧ s.class1Pending = true ∧ s.rstQualified = false ∧ (s.cfg.tResetMin : Int) ≤ s.resetWidth ∧
      resetMeasureTick s n = n.enterStretch s.resetWidth) ∨
    (s.lineS = false ∧ s.dlRemaining < 0 ∧
      ¬(s.class1Pending = true ∧ s.rstQualified = false ∧ (s.cfg.tResetMin : Int) ≤ s.resetWidth) ∧
      resetMeasureTick s n = n.raiseFault .shortPulseTimeout) ∨
    (s.lineS = false ∧ 0 ≤ s.dlRemaining ∧
      ¬(s.class1Pending = true ∧ s.rstQualified = false ∧ (s.cfg.tResetMin : Int) ≤ s.resetWidth) ∧
      resetMeasureTick s n = n) := by
  unfold resetMeasureTick
  by_cases a : s.lineS = true
  · by_cases b : s.rstQualified = true ∨ (s.cfg.tResetMin : Int) ≤ s.resetWidth
    · exact .inl ⟨a, b, by simp [a, b]⟩
    · refine .inr (.inl ⟨a, ?_, ?_, by simp [a, b]⟩)
      · simpa using fun h => b (.inl h)
      · exact not_le.mp fun h => b (.inr h)
  · have a' : s.lineS = false := by simpa using a
    by_cases b : s.class1Pending = true ∧ s.rstQualified = false ∧ (s.cfg.tResetMin : Int) ≤ s.resetWidth
    · exact .inr (.inr (.inl ⟨a', b.1, b.2.1, b.2.2, by rw [if_neg a, if_pos b]⟩))
    · by_cases c : s.dlRemaining < 0
      · exact .inr (.inr (.inr (.inl ⟨a', c, b, by rw [if_neg a, if_neg b, if_pos c]⟩)))
      · exact .inr (.inr (.inr (.inr ⟨a', not_lt.mp c, b, by rw [if_neg a, if_neg b, if_neg c]⟩)))

/-- A waiting state ends its delay or counts it down (R135). -/
theorem delayTick_cases (s n : State) (exit : State → State) :
    (s.dly = 1 ∧ delayTick s n exit = exit n) ∨ (s.dly ≠ 1 ∧ delayTick s n exit = { n with dly := s.dly - 1 }) := by
  by_cases h : s.dly = 1
  · exact .inl ⟨h, by simp [delayTick, h]⟩
  · exact .inr ⟨h, by simp [delayTick, h]⟩

/-! ### The slot -/

/-- Everything the falling edge of a slot can do (R151). -/
theorem slotStart_cases (n : State) :
    let dl : Deadline := if n.cfg.slotEndBounded then ⟨(n.cfg.tSlotLowMax : Int) - 1, true⟩ else ⟨-1, false⟩
    (n.te.dir = .recv ∧
      slotStart n = { n with te := { n.te with phase := .act }, dly := n.cfg.tSample, intArmed := false, dl := dl }) ∨
    (n.te.dir = .send ∧ n.te.cur = false ∧
      slotStart n = { n with te := { n.te with phase := .act }, dly := n.cfg.tW0Low, intArmed := false, dl := dl }) ∨
    (n.te.dir = .send ∧ n.te.cur = true ∧
      slotStart n = { n with te := { n.te with phase := .ending }, intArmed := false, dl := dl }) := by
  cases hd : n.te.dir <;> cases hc : n.te.cur <;> cases hb : n.cfg.slotEndBounded <;>
    simp [slotStart, State.dlStart, State.dlStop, hd, hc, hb]

/-- Everything a tick of START can do (R151, R157). -/
theorem startTick_cases (s n : State) :
    (s.edgeFall = true ∧ startTick s n = slotStart n) ∨
    (s.edgeFall = false ∧ s.class2Pending = true ∧ startTick s n = pulseFromStart n) ∨
    (s.edgeFall = false ∧ s.class2Pending = false ∧ s.dlRemaining < 0 ∧
      startTick s n = n.raiseFault .timeSlotTimeout) ∨
    (s.edgeFall = false ∧ s.class2Pending = false ∧ 0 ≤ s.dlRemaining ∧ startTick s n = n) := by
  unfold startTick
  by_cases a : s.edgeFall = true
  · exact .inl ⟨a, by simp [a]⟩
  · have a' : s.edgeFall = false := by simpa using a
    by_cases b : s.class2Pending = true
    · exact .inr (.inl ⟨a', b, by simp [a', b]⟩)
    · have b' : s.class2Pending = false := by simpa using b
      by_cases c : s.dlRemaining < 0
      · exact .inr (.inr (.inl ⟨a', b', c, by simp [a', b', c]⟩))
      · exact .inr (.inr (.inr ⟨a', b', not_lt.mp c, by simp [a', b', c]⟩))

/-- Everything slot completion can do (R179): the next slot of the same operation, or its result. -/
theorem completeSlot_cases (n : State) :
    (∃ cnt tri sr, completeSlot n = .more (State.nextSlot cnt tri { n with te := { n.te with sr := sr } })) ∨
    (∃ x data sr, completeSlot n = .done x data (State.teDone { n with te := { n.te with sr := sr } })) := by
  unfold completeSlot completeSearch
  split
  · exact .inr ⟨_, _, n.te.sr, rfl⟩
  · exact .inr ⟨_, _, n.te.sr, rfl⟩
  · dsimp only; split
    · exact .inr ⟨_, _, _, rfl⟩
    · exact .inl ⟨_, _, _, rfl⟩
  · split
    · exact .inr ⟨_, _, n.te.sr, rfl⟩
    · exact .inl ⟨_, _, n.te.sr, rfl⟩
  all_goals
    split
    · exact .inl ⟨_, _, n.te.sr, rfl⟩
    · split
      · exact .inr ⟨_, _, n.te.sr, rfl⟩
      · split
        · exact .inr ⟨_, _, n.te.sr, rfl⟩
        · exact .inl ⟨_, _, n.te.sr, rfl⟩

theorem deliver_total (r : SlotResult) : ∃ t, deliver r = .next t := by
  cases r with
  | more n => exact ⟨n, rfl⟩
  | done x data n =>
    cases h : n.te.client with
    | dev => exact ⟨n.respond x data, by simp [deliver, h]⟩
    | rom =>
      obtain ⟨t, ht⟩ := exec_total n.commandAt n
      exact ⟨t, by simp [deliver, h, ht]⟩

theorem endingTick_total (s n : State) : ∃ t, endingTick s n = .next t := by
  unfold endingTick
  split
  · exact deliver_total _
  · split <;> exact ⟨_, rfl⟩

theorem teTick_total (s n : State) : ∃ t, teTick s n = .next t := by
  unfold teTick
  split
  · exact ⟨_, rfl⟩
  · exact ⟨_, rfl⟩
  · exact ⟨_, rfl⟩
  · exact endingTick_total _ _

theorem engineTick_total (s n : State) (h : s.st.used = true) : ∃ t, engineTick s n = .next t := by
  unfold engineTick
  split
  case h_11 k hk => rw [hk] at h; cases h
  all_goals first | exact ⟨_, rfl⟩ | exact teTick_total _ _ | skip
  unfold deviceTick
  split
  · exact ⟨_, rfl⟩
  · exact teTick_total _ _

end Sys2Proof.Machine
end

