-- ==== Sys2Proof/Laws/Tick.lean ====
section
/-! SUPPORT. What one tick does when it accepts no request: the engine's rule on `State.base`, then the end of the tick. -/

namespace Sys2Proof.Machine

/-- A request while the transfer engine is busy changes nothing; outside a session it is answered REFUSED. -/
theorem requestTick_base {s : State} (h : ¬(s.st = .device ∧ s.te.phase = .idle)) :
    requestTick s s.beginTick = .next s.base := by
  unfold requestTick State.requested State.base
  by_cases hx : s.inp.xreqValid = true
  · rw [if_pos hx]
    dsimp only
    rw [exec_xreq]
    by_cases hd : s.st = .device
    · have hp : s.te.phase ≠ .idle := fun e => h ⟨hd, e⟩
      simp [State.request, hd, hp]
    · simp [State.request, hd, hx]
  · simp [hx]

/-- A tick without block reset and without a session waiting for a request. -/
theorem step_base {s : State} (hv : s.cfg.valid = true) (hr : s.inp.rstN = true)
    (h : ¬(s.st = .device ∧ s.te.phase = .idle)) :
    step s = andThen (engineTick s s.base) fun m => .next (s.endTick m) := by
  rw [step_run hv hr, runTick, requestTick_base h]
  rfl

/-- A tick of a running transfer engine. -/
theorem step_te {s : State} (hv : s.cfg.valid = true) (hr : s.inp.rstN = true) (ht : s.st.runsTe = true)
    (hp : s.te.phase ≠ .idle) :
    step s = andThen (teTick s s.base) fun m => .next (s.endTick m) := by
  rw [step_base hv hr fun h => hp h.2]
  congr 1
  cases hs : s.st <;> simp [EngineState.runsTe, hs] at ht <;> simp [engineTick, deviceTick, hs, hp]

theorem State.base_eq (s : State) :
    s.base = { s.beginTick with
      rsp := if s.inp.xreqValid = true ∧ s.st ≠ .device then ⟨true, .refused, 0⟩ else ⟨false, .ok, 0⟩ } := by
  unfold State.base
  split <;> rfl

@[simp] theorem State.base_cfg (s : State) : s.base.cfg = s.cfg := by simp [State.base_eq]
@[simp] theorem State.base_st (s : State) : s.base.st = s.st := by simp [State.base_eq]
@[simp] theorem State.base_id (s : State) : s.base.id = s.id := by simp [State.base_eq]
@[simp] theorem State.base_awaitingReset (s : State) : s.base.awaitingReset = s.awaitingReset := by simp [State.base_eq]
@[simp] theorem State.base_resumeEligible (s : State) : s.base.resumeEligible = s.resumeEligible := by
  simp [State.base_eq]
@[simp] theorem State.base_alarmAsserted (s : State) : s.base.alarmAsserted = s.alarmAsserted := by simp [State.base_eq]
@[simp] theorem State.base_intClass (s : State) : s.base.intClass = s.intClass := by simp [State.base_eq]
@[simp] theorem State.base_intArmed (s : State) : s.base.intArmed = s.intArmed := by simp [State.base_eq]
@[simp] theorem State.base_faultCode (s : State) : s.base.faultCode = s.faultCode := by simp [State.base_eq]
@[simp] theorem State.base_dl (s : State) : s.base.dl = dlCount s.cfg s.dl := by simp [State.base_eq]
@[simp] theorem State.base_dly (s : State) : s.base.dly = s.dly := by simp [State.base_eq]
@[simp] theorem State.base_prevS (s : State) : s.base.prevS = s.lineS := by simp [State.base_eq]
@[simp] theorem State.base_te (s : State) : s.base.te = s.te := by simp [State.base_eq]
@[simp] theorem State.base_rom (s : State) : s.base.rom = s.rom := by simp [State.base_eq]
@[simp] theorem State.base_rstQualified (s : State) : s.base.rstQualified = s.rstQualified := by simp [State.base_eq]
@[simp] theorem State.base_nv (s : State) : s.base.nv = nvNext s.env.tick s.nv := by simp [State.base_eq]
@[simp] theorem State.base_env (s : State) : s.base.env = s.env := by simp [State.base_eq]

/-! ### The completion of a slot -/

theorem finished_eq_teDone {s : State} (h : s.te.op ≠ .recvByte) : s.finished = s.base.teDone := by
  simp [State.finished, State.completedSr, h, State.teDone, State.dlStop, dlStopped]

/-- A slot that ends its operation completes in `State.finished`. -/
theorem completeSlot_done {s : State} (h : opCompletes s) :
    ∃ status data, completeSlot s.base = .done status data s.finished := by
  obtain ⟨_, _, h⟩ := h
  unfold completeSlot completeSearch
  rw [State.base_te]
  cases hop : s.te.op <;> rw [hop] at h <;> dsimp only at h ⊢
  · exact ⟨_, _, by rw [finished_eq_teDone (by simp [hop])]⟩
  · exact ⟨_, _, by rw [finished_eq_teDone (by simp [hop])]⟩
  · rw [if_pos h]
    exact ⟨.ok, setBitOf s.te.sr s.te.cnt s.te.d, by
      simp [State.finished, State.completedSr, hop, State.teDone, State.dlStop, dlStopped]⟩
  · exact ⟨_, _, by rw [if_pos h, finished_eq_teDone (by simp [hop])]⟩
  · rw [if_neg (by omega), finished_eq_teDone (by simp [hop])]
    split
    · exact ⟨_, _, rfl⟩
    · exact ⟨_, _, if_pos (.inl rfl)⟩
  · rw [if_neg (by omega), finished_eq_teDone (by simp [hop])]
    split
    · exact ⟨_, _, rfl⟩
    · rename_i hd
      exact ⟨_, _, if_pos (.inr (h.2.resolve_right hd))⟩

/-- A slot that does not end its operation goes on with the next slot. -/
theorem completeSlot_more {s : State} (hp : s.te.phase = .ending) (hl : s.lineS = true) (h : ¬opCompletes s) :
    ∃ cnt tri sr, completeSlot s.base = .more (State.nextSlot cnt tri { s.base with te := { s.te with sr := sr } }) := by
  have hn : ∀ cnt tri, State.nextSlot cnt tri s.base =
      State.nextSlot cnt tri { s.base with te := { s.te with sr := s.te.sr } } := by
    intro cnt tri
    simp [State.nextSlot]
  unfold opCompletes at h
  unfold completeSlot completeSearch
  rw [State.base_te]
  cases hop : s.te.op <;> simp only [hop, hp, hl, true_and, not_true_eq_false] at h <;> dsimp only
  · exact ⟨_, _, _, if_neg h⟩
  · exact ⟨_, _, _, (if_neg h).trans (by rw [hn])⟩
  · exact ⟨_, _, _, (if_pos (by omega)).trans (by rw [hn])⟩
  · by_cases ht : s.te.tri.toNat < 2
    · exact ⟨_, _, _, (if_pos ht).trans (by rw [hn])⟩
    · have h := not_or.mp fun hc => h ⟨by omega, hc⟩
      rw [if_neg ht, if_neg h.2, if_neg (by simpa using h.1)]
      exact ⟨_, _, _, by rw [hn]⟩

end Sys2Proof.Machine
end

