-- ==== Sys2Proof/Laws/Env.lean ====
section
/-! SUPPORT. What stands around the block reaches a tick only through the input ports and the line: with another
environment under which the ports and the sample of this tick are read the same, the rules do the same. -/

namespace Sys2Proof.Machine

/-- `n` with another environment. -/
def State.withEnv (e : Environment) (n : State) : State := { n with env := e }

@[simp] theorem State.withEnv_cfg (e : Environment) (n : State) : (n.withEnv e).cfg = n.cfg := rfl
@[simp] theorem State.withEnv_st (e : Environment) (n : State) : (n.withEnv e).st = n.st := rfl
@[simp] theorem State.withEnv_id (e : Environment) (n : State) : (n.withEnv e).id = n.id := rfl
@[simp] theorem State.withEnv_awaitingReset (e : Environment) (n : State) : (n.withEnv e).awaitingReset = n.awaitingReset := rfl
@[simp] theorem State.withEnv_resumeEligible (e : Environment) (n : State) : (n.withEnv e).resumeEligible = n.resumeEligible := rfl
@[simp] theorem State.withEnv_alarmAsserted (e : Environment) (n : State) : (n.withEnv e).alarmAsserted = n.alarmAsserted := rfl
@[simp] theorem State.withEnv_intClass (e : Environment) (n : State) : (n.withEnv e).intClass = n.intClass := rfl
@[simp] theorem State.withEnv_intArmed (e : Environment) (n : State) : (n.withEnv e).intArmed = n.intArmed := rfl
@[simp] theorem State.withEnv_faultCode (e : Environment) (n : State) : (n.withEnv e).faultCode = n.faultCode := rfl
@[simp] theorem State.withEnv_dl (e : Environment) (n : State) : (n.withEnv e).dl = n.dl := rfl
@[simp] theorem State.withEnv_dly (e : Environment) (n : State) : (n.withEnv e).dly = n.dly := rfl
@[simp] theorem State.withEnv_prevS (e : Environment) (n : State) : (n.withEnv e).prevS = n.prevS := rfl
@[simp] theorem State.withEnv_te (e : Environment) (n : State) : (n.withEnv e).te = n.te := rfl
@[simp] theorem State.withEnv_rom (e : Environment) (n : State) : (n.withEnv e).rom = n.rom := rfl
@[simp] theorem State.withEnv_rstQualified (e : Environment) (n : State) : (n.withEnv e).rstQualified = n.rstQualified := rfl
@[simp] theorem State.withEnv_rsp (e : Environment) (n : State) : (n.withEnv e).rsp = n.rsp := rfl
@[simp] theorem State.withEnv_nv (e : Environment) (n : State) : (n.withEnv e).nv = n.nv := rfl
@[simp] theorem State.withEnv_env (e : Environment) (n : State) : (n.withEnv e).env = e := rfl

/-- The outcome with another environment in its state. -/
def mapEnv (e : Environment) (o : Host.Outcome State Fault Refusal) : Host.Outcome State Fault Refusal :=
  andThen o fun m => .next (m.withEnv e)

theorem State.abortTransfer_withEnv (e : Environment) (n : State) :
    (n.withEnv e).abortTransfer = n.abortTransfer.withEnv e := by
  unfold State.abortTransfer State.withEnv
  dsimp only
  split
  · rfl
  · split <;> rfl

theorem State.raiseFault_withEnv (f : FaultKind) (e : Environment) (n : State) :
    (n.withEnv e).raiseFault f = (n.raiseFault f).withEnv e := by
  have h : State.abortTransfer { n.withEnv e with faultCode := f.code } =
      (State.abortTransfer { n with faultCode := f.code }).withEnv e :=
    State.abortTransfer_withEnv e { n with faultCode := f.code }
  unfold State.raiseFault
  rw [h]
  cases f <;> rfl

theorem slotStart_withEnv (e : Environment) (n : State) : slotStart (n.withEnv e) = (slotStart n).withEnv e := by
  cases hd : n.te.dir <;> cases hc : n.te.cur <;> cases hb : n.cfg.slotEndBounded <;>
    simp [slotStart, State.withEnv, State.dlStart, State.dlStop, hd, hc, hb]

theorem ite_withEnv {p q : Prop} [Decidable p] [Decidable q] {e : Environment} {a b a' b' : State} (h : q ↔ p)
    (ha : a' = a.withEnv e) (hb : b' = b.withEnv e) : (if q then a' else b') = (if p then a else b).withEnv e := by
  by_cases hp : p
  · rw [if_pos hp, if_pos (h.2 hp), ha]
  · rw [if_neg hp, if_neg fun hq => hp (h.1 hq), hb]

theorem next_withEnv {e : Environment} {a b : State} (h : a = b.withEnv e) :
    (Host.Outcome.next a : Host.Outcome State Fault Refusal) = mapEnv e (.next b) := by
  rw [h]
  rfl

theorem ite_mapEnv {p q : Prop} [Decidable p] [Decidable q] {e : Environment}
    {a b a' b' : Host.Outcome State Fault Refusal} (h : q ↔ p) (ha : a' = mapEnv e a) (hb : b' = mapEnv e b) :
    (if q then a' else b') = mapEnv e (if p then a else b) := by
  by_cases hp : p
  · rw [if_pos hp, if_pos (h.2 hp), ha]
  · rw [if_neg hp, if_neg fun hq => hp (h.1 hq), hb]

theorem request_withEnv (op : Option TransferOp) (data : Byte) (e : Environment) (n : State)
    (h : (n.withEnv e).inp.devEnd = n.inp.devEnd) :
    (n.withEnv e).request op data = (n.request op data).withEnv e := by
  refine ite_withEnv Iff.rfl rfl (ite_withEnv Iff.rfl rfl (ite_withEnv (by rw [h]) rfl ?_))
  cases op <;> rfl

theorem searchNext_withEnv (e : Environment) (n : State) : (n.withEnv e).searchNext = n.searchNext.withEnv e :=
  ite_withEnv Iff.rfl rfl (ite_withEnv Iff.rfl rfl rfl)

theorem sendNext_withEnv (last : State → State) (hl : ∀ (e : Environment) n, last (n.withEnv e) = (last n).withEnv e)
    (e : Environment) (n : State) : (n.withEnv e).sendNext last = (n.sendNext last).withEnv e :=
  ite_withEnv Iff.rfl (hl e n) rfl

theorem readRomEnd_withEnv (e : Environment) (n : State) : (n.withEnv e).readRomEnd = n.readRomEnd.withEnv e :=
  ite_withEnv Iff.rfl rfl rfl

theorem matchNext_withEnv (e : Environment) (n : State) : (n.withEnv e).matchNext = n.matchNext.withEnv e :=
  ite_withEnv Iff.rfl (ite_withEnv Iff.rfl rfl rfl) rfl

theorem writeNext_withEnv (e : Environment) (n : State) : (n.withEnv e).writeNext = n.writeNext.withEnv e := by
  unfold State.writeNext
  rw [State.withEnv_rom]
  cases n.rom.step
  · exact ite_withEnv Iff.rfl (ite_withEnv Iff.rfl rfl rfl) rfl
  · exact sendNext_withEnv _ (fun _ _ => rfl) e n

/-- A ROM command reads nothing of the environment. -/
theorem exec_romCmd_withEnv (cfg : Config) (c : Byte) (e : Environment) (n : State) :
    exec (decodeRomCmd cfg c) (n.withEnv e) = mapEnv e (exec (decodeRomCmd cfg c) n) := by
  unfold decodeRomCmd
  split
  · exact next_withEnv (ite_withEnv Iff.rfl (searchNext_withEnv e n) rfl)
  split
  · exact next_withEnv (ite_withEnv Iff.rfl (sendNext_withEnv _ readRomEnd_withEnv e n) rfl)
  split
  · exact next_withEnv (ite_withEnv Iff.rfl (sendNext_withEnv _ readRomEnd_withEnv e n) rfl)
  split
  · exact next_withEnv (ite_withEnv Iff.rfl (matchNext_withEnv e n) rfl)
  split
  · rfl
  split
  · exact next_withEnv (ite_withEnv Iff.rfl (writeNext_withEnv e n) rfl)
  split
  · exact next_withEnv (ite_withEnv Iff.rfl (searchNext_withEnv e n) (ite_withEnv Iff.rfl rfl rfl))
  split
  · exact next_withEnv (ite_withEnv Iff.rfl rfl rfl)
  · rfl

/-- A request reads nothing of the environment but `dev_end`. -/
theorem exec_xreq_withEnv (op : BitVec 3) (data : Byte) (e : Environment) (n : State)
    (h : (n.withEnv e).inp.devEnd = n.inp.devEnd) :
    exec (decodeXreq op data) (n.withEnv e) = mapEnv e (exec (decodeXreq op data) n) := by
  rw [exec_xreq, exec_xreq]
  exact next_withEnv (request_withEnv _ _ e n h)

/-- A completed slot's next slot or result reads nothing of the environment. -/
theorem deliver_completeSlot_withEnv (e : Environment) (n : State) :
    deliver (completeSlot (n.withEnv e)) = mapEnv e (deliver (completeSlot n)) := by
  have hd : ∀ (m : State) x data, deliver (.done x data (m.withEnv e)) = mapEnv e (deliver (.done x data m)) := by
    intro m x data
    unfold deliver
    dsimp only
    rw [State.withEnv_te]
    cases m.te.client
    · have hc : (m.withEnv e).commandAt = m.commandAt := rfl
      show exec (m.withEnv e).commandAt (m.withEnv e) = mapEnv e (exec m.commandAt m)
      rw [hc]
      unfold State.commandAt
      split <;> exact exec_romCmd_withEnv _ _ e m
    · rfl
  obtain ⟨hr, hr'⟩ | ⟨hr, hr'⟩ :
      (∃ m, completeSlot n = .more m ∧ completeSlot (n.withEnv e) = .more (m.withEnv e)) ∨
      (∃ m x data, completeSlot n = .done x data m ∧
        completeSlot (n.withEnv e) = .done x data (m.withEnv e)) := by
    unfold completeSlot completeSearch
    rw [State.withEnv_te]
    cases n.te.op
    · exact .inr ⟨n.teDone, _, _, rfl, rfl⟩
    · exact .inr ⟨n.teDone, _, _, rfl, rfl⟩
    · by_cases h : n.te.cnt = 7
      · exact .inr ⟨State.teDone { n with te := { n.te with sr := setBitOf n.te.sr n.te.cnt n.te.d } }, _, _,
          if_pos h, if_pos h⟩
      · exact .inl ⟨_, if_neg h, if_neg h⟩
    · by_cases h : n.te.cnt = 7
      · exact .inr ⟨n.teDone, _, _, if_pos h, if_pos h⟩
      · exact .inl ⟨_, if_neg h, if_neg h⟩
    all_goals
      dsimp only
      by_cases h1 : n.te.tri.toNat < 2
      · exact .inl ⟨_, if_pos h1, if_pos h1⟩
      · rw [if_neg h1, if_neg h1]
        by_cases h2 : n.te.d ≠ bitOf n.te.sr n.te.cnt
        · exact .inr ⟨n.teDone, _, _, if_pos h2, if_pos h2⟩
        · rw [if_neg h2, if_neg h2]
          split
          · exact .inr ⟨n.teDone, _, _, rfl, rfl⟩
          · exact .inl ⟨_, rfl, rfl⟩
  · rw [hr'.1, hr'.2]
    rfl
  · obtain ⟨x, data, h1, h2⟩ := hr'
    rw [h1, h2]
    exact hd hr x data

/-- The rule of the engine state reads of the environment only the sample of this tick and its edge; `wake` in a sleeping
IDLE, `irq_ack` in IRQ_HOOK, `dev_end` in an idle session. -/
theorem engineTick_withEnv (e : Environment) (s n : State) (hl : (s.withEnv e).lineS = s.lineS)
    (hw : s.st = .idle → s.cfg.hasSleep = true → (s.withEnv e).inp.wake = s.inp.wake)
    (hi : s.st = .irqHook → (s.withEnv e).inp.irqAck = s.inp.irqAck)
    (hd : s.st = .device → s.te.phase = .idle → (s.withEnv e).inp.devEnd = s.inp.devEnd) :
    engineTick (s.withEnv e) (n.withEnv e) = mapEnv e (engineTick s n) := by
  have he : (s.withEnv e).edgeFall = s.edgeFall := by simp [State.edgeFall, hl]
  have hte : teTick (s.withEnv e) (n.withEnv e) = mapEnv e (teTick s n) := by
    unfold teTick
    rw [State.withEnv_te]
    cases s.te.phase
    · rfl
    · refine next_withEnv (ite_withEnv (by rw [he]) (slotStart_withEnv e n) (ite_withEnv Iff.rfl ?_
        (ite_withEnv Iff.rfl (State.raiseFault_withEnv _ e n) rfl)))
      unfold pulseFromStart
      rw [State.abortTransfer_withEnv]
      rfl
    · refine next_withEnv (ite_withEnv Iff.rfl ?_ rfl)
      unfold actEnd
      rw [hl]
      rfl
    · exact ite_mapEnv (by rw [hl]) (deliver_completeSlot_withEnv e n)
        (ite_mapEnv Iff.rfl (next_withEnv (State.raiseFault_withEnv _ e n)) rfl)
  unfold engineTick
  rw [State.withEnv_st]
  cases hs : s.st
  case idle =>
    refine next_withEnv ?_
    unfold idleTick
    rw [State.withEnv_cfg]
    by_cases hb : s.cfg.hasSleep = true
    rotate_left
    · rw [if_neg hb, if_neg hb]
      exact ite_withEnv (by rw [he]) rfl (ite_withEnv Iff.rfl rfl rfl)
    · rw [if_pos hb, if_pos hb]
      exact ite_withEnv (by rw [hw hs hb]) (ite_withEnv (by rw [hl]) (State.raiseFault_withEnv _ e n) rfl)
        (ite_withEnv Iff.rfl rfl rfl)
  case resetMeasure =>
    exact next_withEnv (ite_withEnv (by rw [hl]) (ite_withEnv Iff.rfl rfl (State.raiseFault_withEnv _ e n))
      (ite_withEnv Iff.rfl rfl (ite_withEnv Iff.rfl (State.raiseFault_withEnv _ e n) rfl)))
  case intStretch => exact next_withEnv (ite_withEnv Iff.rfl rfl rfl)
  case intPulse => exact next_withEnv (ite_withEnv Iff.rfl rfl rfl)
  case presenceWait => exact next_withEnv (ite_withEnv Iff.rfl rfl rfl)
  case presenceLow => exact next_withEnv (ite_withEnv Iff.rfl rfl rfl)
  case romCmd => exact hte
  case romExec => exact hte
  case device =>
    unfold deviceTick
    rw [State.withEnv_te]
    by_cases hp : s.te.phase = .idle
    · rw [if_pos hp, if_pos hp]
      exact next_withEnv (ite_withEnv (by rw [hd hs hp]) rfl rfl)
    · rw [if_neg hp, if_neg hp]
      exact hte
  case irqHook => exact next_withEnv (ite_withEnv (by rw [hi hs]) rfl rfl)
  case unused => rfl

/-! ### Other input ports at this tick -/

theorem State.withInputs_eq (s : State) (x : Inputs) :
    s.withInputs x = s.withEnv ⟨x :: s.env.script.tail, s.env.tick, s.env.lineHist⟩ := rfl

theorem State.withInputs_line {s : State} {x : Inputs} (h : x.extLow = s.inp.extLow) :
    (s.withInputs x).line = s.line := by
  unfold State.line
  rw [State.withInputs_inp, h]
  rfl

theorem State.withInputs_lineS {s : State} {x : Inputs} (h : x.extLow = s.inp.extLow) :
    (s.withInputs x).lineS = s.lineS := by
  unfold State.lineS
  rw [State.withInputs_line h]
  rfl

theorem State.withInputs_nextEnv {s : State} {x : Inputs} (h : x.extLow = s.inp.extLow) :
    (s.withInputs x).nextEnv = s.nextEnv := by
  unfold State.nextEnv
  rw [State.withInputs_line h]
  rfl

theorem State.withInputs_beginTick {s : State} {x : Inputs} (h : x.extLow = s.inp.extLow) :
    (s.withInputs x).beginTick = s.beginTick.withEnv (s.withInputs x).env := by
  unfold State.beginTick
  rw [State.withInputs_lineS h]
  rfl

/-- With other ports at this tick but the same line, the engine's rule does the same unless it reads one of them. -/
theorem engineTick_withInputs {s : State} {x : Inputs} (h : x.extLow = s.inp.extLow)
    (hw : s.st = .idle → s.cfg.hasSleep = true → x.wake = s.inp.wake) (hi : s.st = .irqHook → x.irqAck = s.inp.irqAck)
    (hd : s.st = .device → s.te.phase = .idle → x.devEnd = s.inp.devEnd) (n : State) :
    engineTick (s.withInputs x) (n.withEnv (s.withInputs x).env) = mapEnv (s.withInputs x).env (engineTick s n) :=
  engineTick_withEnv _ s n (State.withInputs_lineS h) hw hi hd

/-- With other ports at this tick but the same line and the same request, the request is answered the same. -/
theorem requestTick_withInputs {s : State} {x : Inputs} (h : x.extLow = s.inp.extLow)
    (hx : x.xreqValid = s.inp.xreqValid ∧ x.xreqOp = s.inp.xreqOp ∧ x.xreqData = s.inp.xreqData)
    (hd : s.st = .device → s.te.phase = .idle → x.devEnd = s.inp.devEnd) :
    ∃ n, requestTick s s.beginTick = .next n ∧
      requestTick (s.withInputs x) (s.withInputs x).beginTick = .next (n.withEnv (s.withInputs x).env) := by
  by_cases hses : s.st = .device ∧ s.te.phase = .idle
  · obtain ⟨n, hn⟩ := requestTick_total s s.beginTick
    refine ⟨n, hn, ?_⟩
    rw [State.withInputs_beginTick h]
    have hq : (s.withInputs x).requested = s.requested := by
      unfold State.requested
      rw [State.withInputs_inp, hx.1, hx.2.1, hx.2.2]
    unfold requestTick at hn ⊢
    rw [hq]
    cases hr : s.requested with
    | none =>
      rw [hr] at hn
      rw [← Host.Outcome.next.inj hn]
    | some i =>
      rw [hr] at hn
      unfold State.requested at hr
      split at hr
      · obtain rfl := Option.some.inj hr
        dsimp only at hn ⊢
        rw [exec_xreq_withEnv _ _ (s.withInputs x).env s.beginTick (hd hses.1 hses.2), hn]
        rfl
      · cases hr
  · refine ⟨_, requestTick_base hses, ?_⟩
    rw [requestTick_base (s := s.withInputs x) hses]
    unfold State.base
    rw [State.withInputs_inp, hx.1, State.withInputs_beginTick h]
    exact congrArg Host.Outcome.next (ite_withEnv Iff.rfl rfl rfl)

/-- With other ports at this tick but the same line and the same condition write, a tick whose request and rule do the same
is the same. -/
theorem step_withInputs {s n : State} {x : Inputs} (h : x.extLow = s.inp.extLow) (hr : x.rstN = true)
    (hr' : s.inp.rstN = true) (h1 : requestTick s s.beginTick = .next n)
    (h2 : requestTick (s.withInputs x) (s.withInputs x).beginTick = .next (n.withEnv (s.withInputs x).env))
    (h3 : engineTick (s.withInputs x) (n.withEnv (s.withInputs x).env) =
      mapEnv (s.withInputs x).env (engineTick s n))
    (hc : x.condValid = s.inp.condValid ∧ x.condAlarm = s.inp.condAlarm ∧ x.condClass = s.inp.condClass) :
    step (s.withInputs x) = step s := by
  unfold step tick
  rw [State.withInputs_cfg, State.withInputs_inp, hr, hr']
  simp only [runTick, h1, h2, andThen]
  rw [h3]
  cases engineTick s n with
  | next m =>
    simp only [mapEnv, andThen, State.endTick, State.withInputs_inp, hc, State.withInputs_nextEnv h, State.withEnv,
      State.setCondition]
    cases s.inp.condValid <;> rfl
  | fault r => cases r
  | refused r => rfl

end Sys2Proof.Machine
end

