-- ==== Sys2Proof/Laws/Operands.lean ====
section
/-! SUPPORT. The laws of bits and bytes: reading after writing one bit of a byte, or one byte of a register file; the
checksum of a longer message. -/

namespace Sys2Proof.Machine

theorem bitOf_setBitOf_same (v : Byte) (k : BitVec 3) (b : Bool) : bitOf (setBitOf v k b) k = b := by
  have hk : k.toNat < 8 := k.isLt
  cases b <;> simp [bitOf, setBitOf, zextBit, hk]

theorem bitOf_setBitOf_other (v : Byte) (k j : BitVec 3) (b : Bool) (h : j ≠ k) :
    bitOf (setBitOf v k b) j = bitOf v j := by
  have hj : j.toNat < 8 := j.isLt
  have hne : j.toNat ≠ k.toNat := fun e => h (BitVec.eq_of_toNat_eq e)
  rcases Nat.lt_or_gt_of_ne hne with hlt | hgt
  · cases b <;> simp [bitOf, setBitOf, zextBit, hj, hlt]
  · have h1 : ¬ j.toNat - k.toNat = 0 := by omega
    cases b <;> simp [bitOf, setBitOf, zextBit, hj, h1, Nat.not_lt.mpr hgt.le]

theorem byteAt_setByteAt_same (v : ByteFile) (k : BitVec 3) (b : Byte) : byteAt (setByteAt v k b) k = b := by
  simp [byteAt, setByteAt]

theorem byteAt_setByteAt_other (v : ByteFile) (k j : BitVec 3) (b : Byte) (h : j ≠ k) :
    byteAt (setByteAt v k b) j = byteAt v j := by
  have : k.toNat ≠ j.toNat := fun e => h (BitVec.eq_of_toNat_eq e.symm)
  simp [byteAt, setByteAt, Vector.getElem_set_ne, this]

/-! ### The checksum -/

@[simp] theorem crc8_nil : crc8 [] = 0 := rfl

theorem crc8_append (before bytes : List Byte) : crc8 (before ++ bytes) = bytes.foldl (crcBits 8) (crc8 before) :=
  List.foldl_append

end Sys2Proof.Machine
end

