-- ==== Sys2Proof/Laws/PerInstr.lean ====
section
/-! SUPPORT. One lemma for each instruction: its format fixes the length of its encoding (30_encoding.md rule R100). -/

namespace Sys2Proof.Laws

/-- The bytes of an instruction: one in format ROMCMD, two in format XREQ. -/
def FormatLength.bytes : Instr → Nat
  | .searchRom => 1
  | .readRom => 1
  | .readRom0F => 1
  | .matchRom => 1
  | .skipRom => 1
  | .writeRom => 1
  | .condSearch => 1
  | .resume => 1
  | .unrecognized _ => 1
  | .recvBit _ => 2
  | .sendBit0 _ => 2
  | .sendBit1 _ => 2
  | .recvByte _ => 2
  | .sendByte _ => 2
  | .searchBit _ => 2
  | .searchByte _ => 2
  | .reserved6 _ => 2
  | .reserved7 _ => 2

/-- The encoding has the length of its format. -/
def FormatLength.Statement (i : Instr) : Prop := (encode i).length = FormatLength.bytes i

theorem FormatLength.searchRom : FormatLength.Statement .searchRom := rfl
theorem FormatLength.readRom : FormatLength.Statement .readRom := rfl
theorem FormatLength.readRom0F : FormatLength.Statement .readRom0F := rfl
theorem FormatLength.matchRom : FormatLength.Statement .matchRom := rfl
theorem FormatLength.skipRom : FormatLength.Statement .skipRom := rfl
theorem FormatLength.writeRom : FormatLength.Statement .writeRom := rfl
theorem FormatLength.condSearch : FormatLength.Statement .condSearch := rfl
theorem FormatLength.resume : FormatLength.Statement .resume := rfl
theorem FormatLength.unrecognized (c : Byte) : FormatLength.Statement (.unrecognized c) := rfl
theorem FormatLength.recvBit (data : Byte) : FormatLength.Statement (.recvBit data) := rfl
theorem FormatLength.sendBit0 (rest : BitVec 7) : FormatLength.Statement (.sendBit0 rest) := rfl
theorem FormatLength.sendBit1 (rest : BitVec 7) : FormatLength.Statement (.sendBit1 rest) := rfl
theorem FormatLength.recvByte (data : Byte) : FormatLength.Statement (.recvByte data) := rfl
theorem FormatLength.sendByte (data : Byte) : FormatLength.Statement (.sendByte data) := rfl
theorem FormatLength.searchBit (data : Byte) : FormatLength.Statement (.searchBit data) := rfl
theorem FormatLength.searchByte (data : Byte) : FormatLength.Statement (.searchByte data) := rfl
theorem FormatLength.reserved6 (data : Byte) : FormatLength.Statement (.reserved6 data) := rfl
theorem FormatLength.reserved7 (data : Byte) : FormatLength.Statement (.reserved7 data) := rfl

end Sys2Proof.Laws
end

