-- ==== Sys2Proof/Laws/Run.lean ====
section
/-! SUPPORT. Runs of several ticks: one more tick, and what the passage of time does to the configuration and the ports. -/

namespace Sys2Proof.Machine

theorem after_zero {s t : State} : After s 0 t ↔ t = s := by
  show Host.Outcome.next s = Host.Outcome.next t ↔ t = s
  exact ⟨fun h => (Host.Outcome.next.inj h).symm, fun h => congrArg Host.Outcome.next h.symm⟩

theorem core_run_succ (M : Host.Core) (k : Nat) (s : M.State) :
    M.run (k + 1) s =
      match M.step s with
      | .next t => M.run k t
      | .fault r => .fault r
      | .refused r => .refused r := rfl

theorem run_succ (s : State) (k : Nat) :
    Host.Core.run Sys2Proof.core (k + 1) s = andThen (step s) (fun v => Host.Core.run Sys2Proof.core k v) := by
  refine (core_run_succ Sys2Proof.core k s).trans ?_
  cases h : step s with
  | next v => rw [show Sys2Proof.core.step s = .next v from h]; rfl
  | fault r => cases r
  | refused r => rw [show Sys2Proof.core.step s = .refused r from h]; rfl

theorem after_step {s t : State} {k : Nat} : After s (k + 1) t ↔ ∃ v, step s = .next v ∧ After v k t := by
  constructor
  · intro h
    exact andThen_next ((run_succ s k).symm.trans h)
  · rintro ⟨v, h1, h2⟩
    refine (run_succ s k).trans ?_
    rw [h1]
    exact h2

/-- A run of `k` ticks and one more. -/
theorem after_succ {s t : State} {k : Nat} : After s (k + 1) t ↔ ∃ v, After s k v ∧ step v = .next t := by
  induction k generalizing s with
  | zero =>
    rw [after_step]
    constructor
    · rintro ⟨v, h1, h2⟩
      exact ⟨s, after_zero.2 rfl, by rw [h1, after_zero.1 h2]⟩
    · rintro ⟨v, h1, h2⟩
      exact ⟨t, by rw [← after_zero.1 h1, h2], after_zero.2 rfl⟩
  | succ k ih =>
    rw [after_step]
    constructor
    · rintro ⟨u, h1, h2⟩
      obtain ⟨v, h3, h4⟩ := ih.1 h2
      exact ⟨v, after_step.2 ⟨u, h1, h3⟩, h4⟩
    · rintro ⟨v, h1, h2⟩
      obtain ⟨u, h3, h4⟩ := after_step.1 h1
      exact ⟨u, h3, ih.2 ⟨v, h4, h2⟩⟩

theorem step_env {s t : State} (h : step s = .next t) : t.env = s.nextEnv := by
  obtain ⟨_, ⟨_, rfl⟩ | ⟨_, n, m, _, _, rfl⟩⟩ := step_cases h
  · rfl
  · exact State.endTick_env s m

theorem step_inputAt {s t : State} (h : step s = .next t) (j : Nat) : t.inputAt j = s.inputAt (j + 1) := by
  unfold State.inputAt
  rw [step_env h]
  have hs : s.nextEnv.script[j]? = s.env.script[j + 1]? := by
    unfold State.nextEnv
    cases s.env.script <;> simp
  rw [hs]
  have ht : s.nextEnv.tick + j = s.env.tick + (j + 1) := by
    show s.env.tick + 1 + j = s.env.tick + (j + 1)
    omega
  rw [ht]

/-- The ports of the tick `j` of a state reached after `k` ticks are those of the tick `k + j`. -/
theorem after_inputAt {s t : State} {k : Nat} (h : After s k t) (j : Nat) : t.inputAt j = s.inputAt (k + j) := by
  induction k generalizing t j with
  | zero => rw [after_zero.1 h, Nat.zero_add]
  | succ k ih =>
    obtain ⟨v, h1, h2⟩ := after_succ.1 h
    rw [step_inputAt h2, ih h1]
    congr 1
    omega

end Sys2Proof.Machine
end

