-- ==== Sys2Proof/Machine/Master.lean ====
section
/-! DEFINITION. The spec's test scaffolding: the request syntax (30_encoding.md rule R114), the reference master (R115) and
its pseudo-instructions (R116). No rule of the block reads it; it turns a master script into the inputs of coming ticks. -/

namespace Sys2Proof.Machine

/-- An action of the reference master (R115). -/
inductive MasterAction where
  | rst (w : Nat)
  | w1
  | w0
  | r
  | idle (n : Nat)
deriving DecidableEq, Repr

/-- How many ticks from its start the action holds the line low (R115). -/
def MasterAction.lowTicks : MasterAction → Nat
  | .rst w => w
  | .w1 => 6
  | .w0 => 60
  | .r => 3
  | .idle _ => 0

/-- How many ticks after its start the next action starts (R115). -/
def MasterAction.ticks : MasterAction → Nat
  | .rst w => w + 480
  | .w1 => 70
  | .w0 => 70
  | .r => 70
  | .idle n => n

/-- When the master samples, counted from the action's start (R115). -/
def MasterAction.sampleAt : MasterAction → Option Nat
  | .rst w => some (w + 70)
  | .w1 => none
  | .w0 => none
  | .r => some 13
  | .idle _ => none

/-- `ext_low` at each tick of an action (R115). -/
def MasterAction.extLow (a : MasterAction) : List Bool :=
  List.replicate a.lowTicks true ++ List.replicate (a.ticks - a.lowTicks) false

/-- `ext_low` at each tick of a script. -/
def masterLine (script : List MasterAction) : List Bool := script.flatMap MasterAction.extLow

/-- `W(b)` (R116). -/
def writeSlot (b : Bool) : MasterAction := if b then .w1 else .w0

/-- `WB v` (R116). -/
def writeByte (v : Byte) : List MasterAction := (List.range 8).map fun k => writeSlot (v.getLsbD k)

/-- `RB` (R116). -/
def readByte : List MasterAction := List.replicate 8 .r

/-- `TRI d` (R116). -/
def triplet (d : Bool) : List MasterAction := [.r, .r, writeSlot d]

/-- `CMD X` for the ROM command `i`: `WB` of its code (R116); a request has none. -/
def writeCommand (i : Instr) : List MasterAction :=
  match encode i with
  | [c] => writeByte c
  | _ => []

/-- `WID a0..a7` (R116). -/
def writeIdentity (a : ByteFile) : List MasterAction := a.toList.flatMap writeByte

/-- `RID` (R116). -/
def readIdentity : List MasterAction := (List.replicate 8 readByte).flatten

/-- The inputs of the ticks of a master script, with a quiet device layer and platform. -/
def masterInputs (script : List MasterAction) : List Inputs :=
  (masterLine script).map fun low => { quietInputs with extLow := low }

/-- Two hexadecimal digits. -/
def hexByte (v : Byte) : String :=
  let digit (k : Nat) : String := String.ofList [(Nat.digitChar k).toUpper]
  "0x" ++ digit (v.toNat / 16) ++ digit (v.toNat % 16)

/-- The request syntax of R114; ROM commands are written by their mnemonics. -/
def instrText : Instr → String
  | .searchRom => "SEARCH_ROM"
  | .readRom => "READ_ROM"
  | .readRom0F => "READ_ROM"
  | .matchRom => "MATCH_ROM"
  | .skipRom => "SKIP_ROM"
  | .writeRom => "WRITE_ROM"
  | .condSearch => "COND_SEARCH"
  | .resume => "RESUME"
  | .unrecognized _ => "UNRECOGNIZED"
  | .recvBit _ => "recv_bit"
  | .sendBit0 _ => "send_bit 0"
  | .sendBit1 _ => "send_bit 1"
  | .recvByte _ => "recv_byte"
  | .sendByte data => "send_byte " ++ hexByte data
  | .searchBit data => if data.getLsbD 0 then "search_bit 1" else "search_bit 0"
  | .searchByte data => "search_byte " ++ hexByte data
  | .reserved6 _ => "RESERVED_6"
  | .reserved7 _ => "RESERVED_7"

end Sys2Proof.Machine
end

