-- ==== Sys2Proof/Tests/Slice0.lean ====
section
/-! SUPPORT. Tests: encodings written out from 30_encoding.md, checksums and bit orders of 95_test_vectors.md, single ticks,
and for every statement with hypotheses a state that meets them. -/

namespace Sys2Proof.Tests

open Sys2Proof Sys2Proof.Machine

/-! ### Well-formedness -/

/-- The reference configuration without its options. -/
def bare : Config := { Config.reference with hasWriteRom := false, hasCondSearch := false, readRomSelects := false }

theorem test_wf_option_off : Instr.wf bare .writeRom = false ∧ Instr.wf bare .condSearch = false := by decide

theorem test_wf_unrecognized_known :
    ∀ c ∈ ([0xF0, 0x33, 0x0F, 0x55, 0xCC, 0xD5, 0xEC, 0xA5] : List Byte),
      Instr.wf Config.reference (.unrecognized c) = false := by decide

theorem test_wf_unrecognized_other :
    Instr.wf Config.reference (.unrecognized 0x00) = true ∧ Instr.wf bare (.unrecognized 0xD5) = true := by decide

/-! ### Decoding, words written out bit by bit (R101, R104, R105) -/

theorem test_decode_search_rom : decodeTableWord 8 0b11110000 = some .searchRom := by decide
theorem test_decode_read_rom : decodeTableWord 8 0b00110011 = some .readRom := by decide
theorem test_decode_read_rom_0f : decodeTableWord 8 0b00001111 = some .readRom0F := by decide
theorem test_decode_match_rom : decodeTableWord 8 0b01010101 = some .matchRom := by decide
theorem test_decode_skip_rom : decodeTableWord 8 0b11001100 = some .skipRom := by decide
theorem test_decode_write_rom : decodeTableWord 8 0b11010101 = some .writeRom := by decide
theorem test_decode_cond_search : decodeTableWord 8 0b11101100 = some .condSearch := by decide
theorem test_decode_resume : decodeTableWord 8 0b10100101 = some .resume := by decide
theorem test_decode_unrecognized : decodeTableWord 8 0b00000000 = some (.unrecognized 0) := by decide
theorem test_decode_recv_bit : decodeTableWord 16 0b000_00000000 = some (.recvBit 0) := by decide
theorem test_decode_send_bit_0 : decodeTableWord 16 0b001_00000000 = some (.sendBit0 0) := by decide
theorem test_decode_send_bit_1 : decodeTableWord 16 0b001_00000001 = some (.sendBit1 0) := by decide
theorem test_decode_send_bit_ignored : decodeTableWord 16 0b001_10000010 = some (.sendBit0 0x41) := by decide
theorem test_decode_recv_byte : decodeTableWord 16 0b010_00000000 = some (.recvByte 0) := by decide
theorem test_decode_send_byte : decodeTableWord 16 0b011_10100101 = some (.sendByte 0xA5) := by decide
theorem test_decode_search_bit : decodeTableWord 16 0b100_00000001 = some (.searchBit 1) := by decide
theorem test_decode_search_byte : decodeTableWord 16 0b101_00111010 = some (.searchByte 0x3A) := by decide
theorem test_decode_reserved_6 : decodeTableWord 16 0b110_00000000 = some (.reserved6 0) := by decide
theorem test_decode_reserved_7 : decodeTableWord 16 0b111_11111111 = some (.reserved7 0xFF) := by decide
theorem test_decode_no_such_word : decodeTableWord 16 0b1000_00000000 = none := by decide
theorem test_decode_option_off : decodeRomCmd bare 0xD5 = .unrecognized 0xD5 := by decide

/-! ### Checksums and bit order (95_test_vectors.md E1, E2) -/

theorem test_crc_id0 : crc8 [0x3A, 0xAA, 0xDA, 0xBB, 0xCF, 0x00, 0x00] = 0xE6 := by decide +kernel
theorem test_crc_28 : crc8 [0x28, 0x00, 0x00, 0x00, 0x00, 0x00, 0x00] = 0x1E := by decide +kernel
theorem test_crc_p4 : crc8 [0x3A, 0x01, 0x02, 0x03, 0x04, 0x05, 0x06] = 0x1F := by decide +kernel
theorem test_crc_one_byte : crc8 [0x3A] = 0xC0 := by decide
theorem test_crc_with_itself : crc8 [0x02, 0x1C, 0xB8, 0x01, 0x00, 0x00, 0x00, 0xA2] = 0 := by decide +kernel
theorem test_wire_bits_of_id0 :
    (List.finRange 64).map (wireBit State.reset.id) =
      [0x3A, 0xAA, 0xDA, 0xBB, 0xCF, 0x00, 0x00, 0xE6].flatMap fun v : Byte => bitsOf v := by decide +kernel
theorem test_bits_of_3A : bitsOf 0x3A = [false, true, false, true, true, true, false, false] := by decide

/-! ### Reset -/

theorem test_reset_identity : State.reset.id = #v[0x3A, 0xAA, 0xDA, 0xBB, 0xCF, 0x00, 0x00, 0xE6] := by decide +kernel
theorem test_reset_configuration : State.reset.cfg.valid = true := by decide
theorem test_reset_outputs :
    State.reset.outputs = ⟨false, false, ⟨false, .ok, 0⟩, false, false, ⟨false, 0⟩, true, false⟩ := by decide
theorem test_bad_configuration : Config.valid { Config.reference with tIntStretch := 961 } = false := by decide

/-! ### Small states -/

/-- The smallest windows that R12 allows, or nearly. -/
def tiny : Config :=
  { Config.reference with
    tResetMin := 2, tResetDeadline := 3, tPdh := 1, tPdl := 2, tSample := 1, tW0Low := 1, tSlotWait := 1,
    tSlotLowMax := 2, tIntStretch := 5, tIntPulse := 2, dlWidth := 5 }

/-- Ports at which the line is pulled low. -/
def low : Inputs := { quietInputs with extLow := true }

/-- After block reset, the line high before, these inputs to come. -/
def fresh (cfg : Config) (script : List Inputs) : State :=
  { State.afterReset cfg 0x3A 0x0000CFBBDAAA ⟨script, 1, []⟩ with prevS := true }

/-- In the engine state `x`. -/
def inState (x : EngineState) (script : List Inputs) : State :=
  { fresh tiny script with st := x, awaitingReset := decide (x = .idle) || decide (x = .irqHook) }

/-- A running transfer: `te` in the engine state `x`, the slot wait running. -/
def running (x : EngineState) (te : TransferEngine) (script : List Inputs) : State :=
  { inState x script with te := te, intArmed := decide (te.phase = .start), dl := slotWait tiny }

/-- A device layer's transfer. -/
def deviceTe (phase : Phase) (op : TransferOp) (sr : Byte) (cnt : BitVec 3) (tri : BitVec 2) (dir : Dir) (cur d : Bool) :
    TransferEngine := ⟨phase, op, .dev, sr, cnt, tri, dir, cur, d⟩

/-- The command byte `c` at the tick its eighth slot completes. -/
def commandDone (c : Byte) (script : List Inputs) : State :=
  running .romCmd ⟨.ending, .recvByte, .rom, c &&& 0x7F, 7, 0, .recv, false, c.getLsbD 7⟩ script

/-- The command `c` in ROM_EXEC at data byte `idx`, its transfer `te`. -/
def inExec (c : Byte) (idx : BitVec 3) (step : RomStep) (te : TransferEngine) (script : List Inputs) : State :=
  { running .romExec te script with rom := ⟨c, idx, step, Vector.replicate 8 0⟩ }

/-- An idle session with a request at the ports. -/
def requesting (op : BitVec 3) (data : Byte) (devEnd : Bool) : State :=
  inState .device [{ quietInputs with xreqValid := true, xreqOp := op, xreqData := data, devEnd := devEnd }]

def nextOf : Host.Outcome State Fault Refusal → Option State
  | .next t => some t
  | .fault _ => none
  | .refused _ => none

def isNext (o : Host.Outcome State Fault Refusal) : Bool := (nextOf o).isSome

theorem isNext_iff {o : Host.Outcome State Fault Refusal} : isNext o = true ↔ ∃ t, o = .next t := by
  cases o <;> simp [isNext, nextOf]

/-! ### Single ticks, one or two for each instruction -/

/-- What the tick leaves in a field. -/
def after (o : Host.Outcome State Fault Refusal) {α : Type} (f : State → α) : Option α := (nextOf o).map f

theorem test_skip_rom_selects :
    after (step (commandDone 0xCC [quietInputs])) (fun t => (t.sel, t.rom.cmd, t.dl)) = some (true, 0xCC, ⟨-1, false⟩) := by
  decide

theorem test_resume_not_eligible :
    after (step (commandDone 0xA5 [quietInputs])) (fun t => (t.st, t.awaitingReset)) = some (.idle, true) := by
  decide

theorem test_resume_eligible :
    after (step { commandDone 0xA5 [quietInputs] with resumeEligible := true }) (fun t => (t.st, t.resumeEligible)) =
      some (.device, true) := by decide

theorem test_unrecognized_ends :
    after (step (commandDone 0x00 [quietInputs])) (fun t => (t.st, t.faultCode)) = some (.idle, .noFault) := by
  decide

theorem test_cond_search_no_alarm :
    after (step (commandDone 0xEC [quietInputs])) (fun t => t.st) = some .idle := by decide

theorem test_cond_search_alarm :
    after (step { commandDone 0xEC [quietInputs] with alarmAsserted := true })
      (fun t => (t.st, t.te.op, t.te.sr, t.alarmAsserted)) = some (.romExec, .searchByte, 0x3A, true) := by decide

theorem test_search_rom_begins :
    after (step (commandDone 0xF0 [quietInputs])) (fun t => (t.st, t.te.op, t.te.sr, t.te.dir, t.te.cur)) =
      some (.romExec, .searchByte, 0x3A, .send, false) := by decide

theorem test_read_rom_begins :
    after (step (commandDone 0x33 [quietInputs])) (fun t => (t.te.op, t.te.sr, t.te.phase, t.dl)) =
      some (.sendByte, 0x3A, .start, ⟨0, true⟩) := by decide

theorem test_read_rom_0f_begins :
    after (step (commandDone 0x0F [quietInputs])) (fun t => (t.te.op, t.te.sr, t.rom.cmd)) =
      some (.sendByte, 0x3A, 0x0F) := by decide

/-- The eighth byte 0xE6 of ID0 completes in MATCH_ROM after the seven others. -/
def matching (script : List Inputs) : State :=
  { inExec 0x55 7 .rx ⟨.ending, .recvByte, .rom, 0x66, 7, 0, .recv, false, true⟩ script with
    rom := ⟨0x55, 7, .rx, #v[0x3A, 0xAA, 0xDA, 0xBB, 0xCF, 0, 0, 0]⟩, alarmAsserted := true, intClass := 2 }

theorem test_match_rom_selects :
    after (step (matching [quietInputs])) (fun t => (t.st, t.resumeEligible, t.alarmAsserted, t.intClass)) =
      some (.device, true, false, 2) := by decide +kernel

theorem test_match_rom_one_bit_off :
    after (step { matching [quietInputs] with id := #v[0x3A, 0xAA, 0xDA, 0xBA, 0xCF, 0, 0, 0xE6] })
      (fun t => (t.st, t.resumeEligible, t.alarmAsserted)) = some (.idle, false, true) := by decide

/-- The eighth byte 0x1F of program P4's identity completes in WRITE_ROM. -/
def accepting (script : List Inputs) : State :=
  { inExec 0xD5 7 .rx ⟨.ending, .recvByte, .rom, 0x1F, 7, 0, .recv, false, false⟩ script with
    rom := ⟨0xD5, 7, .rx, #v[0x3A, 1, 2, 3, 4, 5, 6, 0]⟩ }

theorem test_write_rom_adopts :
    after (step (accepting [quietInputs])) (fun t => (t.id, t.nv, t.te.op, t.te.sr, t.rom.step)) =
      some (#v[0x3A, 1, 2, 3, 4, 5, 6, 0x1F], ⟨true, 0x060504030201⟩, .sendByte, 0x3A, .tx) := by decide +kernel

theorem test_write_rom_other_family :
    after (step { accepting [quietInputs] with rom := ⟨0xD5, 7, .rx, #v[0x28, 1, 2, 3, 4, 5, 6, 0]⟩ })
      (fun t => (t.id, t.nv.valid, t.te.op)) =
      some (#v[0x3A, 0xAA, 0xDA, 0xBB, 0xCF, 0, 0, 0xE6], false, .sendByte) := by decide +kernel

theorem test_recv_bit_begins :
    after (step (requesting 0 0xFF false)) (fun t => (t.te.phase, t.te.op, t.te.dir, t.te.sr, t.intArmed)) =
      some (.start, .recvBit, .recv, 0, true) := by decide

theorem test_recv_bit_answers :
    after (step (running .device (deviceTe .ending .recvBit 0 0 0 .recv false true) [quietInputs])) (fun t => t.rsp) =
      some ⟨true, .ok, 1⟩ := by decide

theorem test_send_bit_0_begins :
    after (step (requesting 1 0xFE false)) (fun t => (t.te.op, t.te.dir, t.te.cur, t.te.sr)) =
      some (.sendBit, .send, false, 0) := by decide

theorem test_send_bit_1_begins :
    after (step (requesting 1 0x01 false)) (fun t => (t.te.op, t.te.dir, t.te.cur, t.te.sr)) =
      some (.sendBit, .send, true, 1) := by decide

theorem test_send_bit_0_drives :
    after (step (running .device (deviceTe .start .sendBit 0 0 0 .send false false) [low])) (fun t => t.owDrive) =
      some true := by decide

theorem test_recv_byte_begins :
    after (step (requesting 2 0x55 false)) (fun t => (t.te.op, t.te.sr, t.te.cnt, t.dl)) =
      some (.recvByte, 0, 0, ⟨0, true⟩) := by decide

theorem test_recv_byte_order :
    (runSlots [false, true, false, true, true, true, false, false] ((inState .device []).teBegin .recvByte 0 .dev)).2 =
      .done .ok 0x3A (State.teDone { (inState .device []).teBegin .recvByte 0 .dev with
        te := ⟨.ending, .recvByte, .dev, 0x3A, 7, 0, .recv, false, false⟩ }) := by decide +kernel

theorem test_send_byte_begins :
    after (step (requesting 3 0x3A false)) (fun t => (t.te.op, t.te.sr, t.te.dir, t.te.cur)) =
      some (.sendByte, 0x3A, .send, false) := by decide

theorem test_send_byte_order :
    (runSlots (List.replicate 8 false) ((inState .device []).teBegin .sendByte 0x3A .dev)).1 =
      [some false, some true, some false, some true, some true, some true, some false, some false] := by decide

theorem test_search_bit_begins :
    after (step (requesting 4 0xFF false)) (fun t => (t.te.op, t.te.sr, t.te.cur)) = some (.searchBit, 1, true) := by
  decide

theorem test_search_bit_mismatch :
    after (step (running .device (deviceTe .ending .searchBit 1 0 2 .recv false false) [quietInputs])) (fun t => t.rsp) =
      some ⟨true, .mismatch, 0⟩ := by decide

theorem test_search_byte_begins :
    after (step (requesting 5 0xE6 false)) (fun t => (t.te.op, t.te.sr, t.te.cur)) = some (.searchByte, 0xE6, false) := by
  decide

theorem test_search_byte_mismatch_index :
    after (step (running .device (deviceTe .ending .searchByte 0x3A 5 2 .recv false false) [quietInputs])) (fun t => t.rsp) =
      some ⟨true, .mismatch, 5⟩ := by decide

theorem test_reserved_6_refused :
    after (step (requesting 6 0xFF false)) (fun t => (t.rsp, t.te.phase, t.st)) =
      some (⟨true, .refused, 0⟩, .idle, .device) := by decide

theorem test_reserved_7_refused :
    after (step (requesting 7 0x00 false)) (fun t => (t.rsp, t.te.phase, t.st)) =
      some (⟨true, .refused, 0⟩, .idle, .device) := by decide

theorem test_placed_request_runs :
    after (step (State.reset.withFetchWord 16 0b011_10100101)) (fun t => (t.st, t.te.op, t.te.sr)) =
      some (.device, .sendByte, 0xA5) := by decide

theorem test_placed_command_runs :
    after (step (State.reset.withFetchWord 8 0b11001100)) (fun t => (t.st, t.rom.cmd)) = some (.device, 0xCC) := by
  decide

/-! ### Faults -/

theorem test_time_slot_timeout :
    after (step { running .device (deviceTe .start .recvByte 0 3 0 .recv false false) [quietInputs] with dl := ⟨-1, true⟩ })
      (fun t => (t.st, t.faultCode, t.te.phase, t.rsp, t.intArmed)) =
      some (.idle, .timeSlotTimeout, .idle, ⟨true, .aborted, 0⟩, false) := by decide

theorem test_slot_overlong_pulse :
    after (step { running .romCmd ⟨.ending, .recvByte, .rom, 0, 0, 0, .recv, false, false⟩ [low] with dl := ⟨-1, true⟩ })
      (fun t => (t.st, t.faultCode, t.dl, t.rsp.valid)) =
      some (.resetMeasure, .slotOverlongPulse, ⟨-1, true⟩, false) := by decide

/-! ### States that meet the hypotheses of the statements -/

theorem witness_o1 : Instr.wf Config.reference (.unrecognized 0xFF) = true ∧ Instr.wf Config.reference (.sendBit1 0x7F) = true := by
  decide

theorem witness_o2 : decode Config.reference [0xD5] = .ok .writeRom ∧ decode Config.reference [0, 7] = .ok (.reserved7 0) ∧
    decode Config.reference [0, 8] = .error (.opcodeRange 8) ∧ decode Config.reference [] = .error (.length 0) := by decide

theorem witness_o3_o4 : Config.reference.hasWriteRom = true ∧ Config.reference.hasCondSearch = true ∧
    bare.hasWriteRom = false ∧ bare.hasCondSearch = false := by decide

theorem witness_o5 : (0xFE : Byte).getLsbD 0 = false ∧ (0x01 : Byte).getLsbD 0 = true := by decide

theorem witness_o7 : (requesting 3 0x3A false).cfg.valid = true ∧ (requesting 3 0x3A false).inp.rstN = true ∧
    (requesting 3 0x3A false).inp.xreqValid = true ∧
    decode (requesting 3 0x3A false).cfg [(requesting 3 0x3A false).inp.xreqData,
      (requesting 3 0x3A false).inp.xreqOp.setWidth 8] = .ok (.sendByte 0x3A) ∧
    (requesting 3 0x3A false).st = .device ∧ (requesting 3 0x3A false).te.phase = .idle ∧
    (requesting 3 0x3A false).inp.devEnd = false := by decide

theorem witness_o7_next : ∃ n, exec (.sendByte 0x3A) (requesting 3 0x3A false).beginTick = .next n := ⟨_, rfl⟩

theorem done_byte {s : State} (h1 : s.te.phase = .ending) (h2 : s.lineS = true) (h3 : s.te.op = .recvByte)
    (h4 : s.te.cnt = 7) : opCompletes s := ⟨h1, h2, by rw [h3]; exact h4⟩

theorem command_completes (c : Byte) : opCompletes (commandDone c [quietInputs]) := done_byte rfl rfl rfl rfl

theorem witness_o8_command : (commandDone 0xCC [quietInputs]).cfg.valid = true ∧
    (commandDone 0xCC [quietInputs]).inp.rstN = true ∧ (commandDone 0xCC [quietInputs]).te.client = .rom ∧
    (commandDone 0xCC [quietInputs]).st = .romCmd ∧
    decode (commandDone 0xCC [quietInputs]).cfg [(commandDone 0xCC [quietInputs]).completedSr] = .ok .skipRom := by decide

theorem witness_o8_exec : opCompletes (matching [quietInputs]) ∧ (matching [quietInputs]).st = .romExec ∧
    decode (matching [quietInputs]).cfg [(matching [quietInputs]).rom.cmd] = .ok .matchRom ∧
    (matching [quietInputs]).te.client = .rom ∧
    (∃ n, exec .matchRom (matching [quietInputs]).finished = .next n) :=
  ⟨done_byte rfl rfl rfl rfl, by decide, by decide, by decide, _, rfl⟩

theorem witness_o9_o10_o11 : (requesting 0 0 false).st = .device ∧ (requesting 0 0 false).te.phase = .idle ∧
    (requesting 0 0 false).inp.devEnd = false := by decide

theorem witness_o12 : ¬((inState .idle []).st = .device ∧ (inState .idle []).te.phase ≠ .idle) ∧
    ¬((inState .device []).st = .device ∧ (inState .device []).te.phase ≠ .idle) := by decide

/-- IDLE with a request at the ports. -/
def askingInIdle : State := inState .idle [{ quietInputs with xreqValid := true, xreqOp := 3 }]

theorem inv_asking_idle : Inv askingInIdle := by constructor <;> decide +kernel
theorem inv_reserved : Inv (requesting 6 0 false) := by constructor <;> decide +kernel
theorem inv_ending : Inv (requesting 3 0 true) := by constructor <;> decide +kernel

theorem witness_o13 : askingInIdle.inp.rstN = true ∧ askingInIdle.inp.xreqValid = true ∧ askingInIdle.st ≠ .device ∧
    (requesting 6 0 false).te.phase = .idle ∧ (requesting 6 0 false).inp.xreqOp = 6 ∧
    (requesting 3 0 true).te.phase = .idle ∧ (requesting 3 0 true).inp.devEnd = true ∧
    (requesting 3 0 true).inp.xreqValid = true := by decide

/-- A session whose send is in ACT, with a request at the ports. -/
def askingBusy : State :=
  running .device (deviceTe .act .sendByte 0 0 0 .send false false) [{ quietInputs with xreqValid := true, devEnd := true }]

theorem witness_o14 : askingBusy.st = .device ∧ askingBusy.te.phase ≠ .idle ∧ askingBusy.inp.xreqValid = true := by decide

theorem witness_o15_o16_o17 : State.reset.resumeEligible = false ∧
    ({ State.reset with resumeEligible := true } : State).resumeEligible = true ∧
    (commandDone 0xEC []).st ≠ .romExec ∧ (commandDone 0xEC []).alarmAsserted = false ∧
    ({ commandDone 0xEC [] with alarmAsserted := true } : State).alarmAsserted = true ∧ (0xA4 : Byte) ≠ 0xA5 := by decide

/-- A search byte of ROM_EXEC completes with direction bit `d` against bit 7 of 0xE6, a 1. -/
def searching (idx : BitVec 3) (d : Bool) : State :=
  inExec 0xF0 idx .rx ⟨.ending, .searchByte, .rom, 0xE6, 7, 2, .recv, false, d⟩ [quietInputs]

theorem witness_o18 : (searching 0 true).st = .romExec ∧
    (searching 0 false).te.d ≠ bitOf (searching 0 false).te.sr (searching 0 false).te.cnt ∧
    (searching 7 true).rom.idx = 7 ∧
    (searching 6 true).te.d = bitOf (searching 6 true).te.sr (searching 6 true).te.cnt ∧ (searching 6 true).rom.idx ≠ 7 := by
  decide

theorem witness_o19 : (searching 6 true).rom.idx ≠ 7 ∧ (searching 7 true).cfg.readRomSelects = true ∧
    ({ searching 7 true with cfg := bare } : State).cfg.readRomSelects = false := by decide

/-- `s` with `v` as the byte the completed transfer received. -/
def receiving (v : Byte) (s : State) : State := { s with te := { s.te with sr := v } }

theorem witness_o20 : (searching 6 true).st = .romExec ∧ (searching 6 true).rom.idx ≠ 7 ∧
    (receiving 0xE6 (matching [])).st = .romExec ∧ (receiving 0xE6 (matching [])).rom.idx = 7 ∧
    setByteAt (receiving 0xE6 (matching [])).rom.rxb 7 (receiving 0xE6 (matching [])).te.sr = (matching []).id ∧
    setByteAt (receiving 0x66 (matching [])).rom.rxb 7 (receiving 0x66 (matching [])).te.sr ≠ (matching []).id := by
  decide +kernel

/-- WRITE_ROM's echo at byte `idx`. -/
def echoing (idx : BitVec 3) : State := inExec 0xD5 idx .tx ⟨.ending, .sendByte, .rom, 0, 7, 0, .send, false, false⟩ []

theorem witness_o21 : (accepting []).st = .romExec ∧ (accepting []).rom.step = .rx ∧ (accepting []).rom.idx = 7 ∧
    (setByteAt (accepting []).rom.rxb 7 (accepting []).te.sr)[0] = (accepting []).id[0] ∧
    (setByteAt (accepting []).rom.rxb 7 (accepting []).te.sr)[7] =
      crc8 (firstSeven (setByteAt (accepting []).rom.rxb 7 (accepting []).te.sr)) ∧
    (setByteAt (accepting []).rom.rxb 7 (receiving 0x1E (accepting [])).te.sr)[7] ≠
      crc8 (firstSeven (setByteAt (accepting []).rom.rxb 7 (receiving 0x1E (accepting [])).te.sr)) ∧
    (inExec 0xD5 6 .rx (accepting []).te []).rom.idx ≠ 7 ∧ (echoing 6).rom.step = .tx ∧ (echoing 6).rom.idx ≠ 7 ∧
    (echoing 7).rom.idx = 7 := by decide +kernel

theorem witness_o22_o23_o24 : (commandDone 0x33 []).st ≠ .romExec ∧ (commandDone 0xD5 []).st ≠ .romExec := by decide

theorem witness_o25_accepts : (accepting [quietInputs]).inp.rstN = true ∧ writeRomAccepts (accepting [quietInputs]) ∧
    ∃ t, step (accepting [quietInputs]) = .next t :=
  ⟨by decide, ⟨⟨by decide, by decide, done_byte rfl rfl rfl rfl, by decide⟩, by decide, by decide, by decide +kernel,
    by decide +kernel⟩, isNext_iff.1 (by decide)⟩

/-- The first slot of the command byte is awaited. -/
def awaitingByte (script : List Inputs) : State := running .romCmd (beginsReceiving .recvByte .rom false) script

theorem witness_o25_not : ¬writeRomAccepts (awaitingByte [quietInputs]) ∧ (awaitingByte [quietInputs]).te.phase = .start ∧
    ∃ t, step (awaitingByte [quietInputs]) = .next t :=
  ⟨fun h => absurd h.1.1 (by decide), by decide, isNext_iff.1 (by decide)⟩

theorem inv_command (c : Byte) (h : c = 0x55 ∨ c = 0xA5) : Inv (commandDone c [quietInputs]) := by
  rcases h with rfl | rfl <;> constructor <;> decide +kernel

theorem inv_matching : Inv (matching [quietInputs]) := by constructor <;> decide +kernel

theorem witness_o26_clears : Inv (commandDone 0x55 [quietInputs]) ∧ (commandDone 0x55 [quietInputs]).st = .romCmd ∧
    opCompletes (commandDone 0x55 [quietInputs]) ∧ (commandDone 0x55 [quietInputs]).completedSr ≠ 0xA5 ∧
    ∃ t, step (commandDone 0x55 [quietInputs]) = .next t :=
  ⟨inv_command _ (.inl rfl), by decide, command_completes _, by decide, isNext_iff.1 (by decide)⟩

theorem witness_o26_sets : Inv (matching [quietInputs]) ∧ matchSelects (matching [quietInputs]) ∧
    ∃ t, step (matching [quietInputs]) = .next t :=
  ⟨inv_matching, ⟨⟨by decide, by decide, done_byte rfl rfl rfl rfl, by decide⟩, by decide, by decide +kernel⟩,
    isNext_iff.1 (by decide +kernel)⟩

theorem witness_o26_keeps : (commandDone 0xA5 [quietInputs]).completedSr = 0xA5 ∧ ¬matchSelects (commandDone 0xA5 [quietInputs]) ∧
    Inv (commandDone 0xA5 [quietInputs]) :=
  ⟨by decide, fun h => absurd h.1.1 (by decide), inv_command _ (.inr rfl)⟩

/-- A slot that sends `bit` to the device layer's order is awaited. -/
def awaitingSend (bit : Bool) (script : List Inputs) : State :=
  running .device (beginsSending .sendBit .dev (if bit then 1 else 0)) script

theorem witness_o27 : (awaitingByte [low]).cfg.valid = true ∧ (awaitingByte [low]).inp.rstN = true ∧
    (awaitingByte [low]).st.runsTe = true ∧ (awaitingByte [low]).te.phase = .start ∧ (awaitingByte [low]).edgeFall = true ∧
    (awaitingByte [low]).te.dir = .recv ∧ (awaitingSend false [low]).edgeFall = true ∧ (awaitingSend false [low]).te.dir = .send ∧
    (awaitingSend false [low]).te.cur = false ∧ (awaitingSend true [low]).te.cur = true := by decide

theorem witness_o28 : (awaitingByte [quietInputs]).edgeFall = false ∧ (awaitingByte [quietInputs]).cfg.hasInterruptSignal = true ∧
    ({ awaitingByte [quietInputs] with intClass := 2 } : State).intClass = 2 ∧ (awaitingByte [quietInputs]).intClass ≠ 2 ∧
    (awaitingByte [quietInputs]).dlRemaining = 0 ∧
    ({ awaitingByte [quietInputs] with dl := ⟨-1, true⟩ } : State).dlRemaining < 0 := by decide

/-- A slot of the device layer in ACT with `k` ticks left. -/
def acting (dir : Dir) (k : Nat) (script : List Inputs) : State :=
  { running .device (deviceTe .act .recvBit 0 0 0 dir false false) script with dly := k }

theorem witness_o29 : (acting .recv 2 [low]).cfg.valid = true ∧ (acting .recv 2 [low]).inp.rstN = true ∧
    (acting .recv 2 [low]).st.runsTe = true ∧ (acting .recv 2 [low]).te.phase = .act ∧ (acting .recv 2 [low]).dly ≠ 1 ∧
    (acting .recv 1 [low]).dly = 1 ∧ (acting .recv 1 [low]).te.dir = .recv ∧ (acting .send 1 [low]).te.dir = .send := by decide

/-- A device layer's slot in END. -/
def ending (op : TransferOp) (sr : Byte) (cnt : BitVec 3) (tri : BitVec 2) (d : Bool) (script : List Inputs) : State :=
  running .device (deviceTe .ending op sr cnt tri .recv false d) script

theorem witness_o30 : (ending .recvBit 0 0 0 false [low]).lineS = false ∧ (ending .recvBit 0 0 0 false [low]).te.phase = .ending ∧
    (ending .recvBit 0 0 0 false [low]).st.runsTe = true ∧ (ending .recvBit 0 0 0 false [low]).cfg.slotEndBounded = true ∧
    (ending .recvBit 0 0 0 false [low]).dlRemaining = 0 ∧
    ({ ending .recvBit 0 0 0 false [low] with dl := ⟨-1, true⟩ } : State).dlRemaining < 0 ∧
    ({ tiny with slotEndBounded := false } : Config).valid = true := by decide

theorem witness_o31 : (ending .recvBit 0 0 0 true [quietInputs]).lineS = true ∧ (ending .recvBit 0 0 0 true [quietInputs]).st = .device ∧
    (ending .recvBit 0 0 0 true [quietInputs]).te.client = .dev ∧ (ending .recvByte 0 7 0 true [quietInputs]).te.cnt = 7 ∧
    (ending .searchByte 0x80 7 2 false [quietInputs]).te.d ≠ bitOf 0x80 7 ∧
    (ending .searchBit 1 0 2 true [quietInputs]).te.d = bitOf 1 0 ∧
    (ending .searchByte 0x80 7 2 true [quietInputs]).te.d = bitOf 0x80 7 ∧
    (ending .searchByte 0x80 7 2 true [quietInputs]).te.tri = 2 := by decide

theorem witness_o32 : (ending .recvByte 0 6 0 true [quietInputs]).te.cnt ≠ 7 ∧ (ending .sendByte 0 0 0 true [quietInputs]).te.cnt ≠ 7 ∧
    (ending .searchBit 0 0 0 true [quietInputs]).te.tri = 0 ∧ (ending .searchByte 0 3 1 true [quietInputs]).te.tri = 1 ∧
    (ending .searchByte 0x40 6 2 true [quietInputs]).te.cnt ≠ 7 ∧
    (ending .searchByte 0x40 6 2 true [quietInputs]).te.d = bitOf 0x40 6 ∧
    (ending .searchByte 0x40 6 2 true [quietInputs]).lineS = true ∧
    (ending .searchByte 0x40 6 2 true [quietInputs]).st.runsTe = true := by decide

theorem witness_o34 : bitOf 0 0 ≠ bitOf 1 0 ∧ (∀ j : BitVec 3, j < 7 → bitOf 0 j = bitOf 0x80 j) ∧ bitOf 0 7 ≠ bitOf 0x80 7 := by
  decide

/-- A script that holds the line low for `w` ticks and then releases it. -/
theorem lowFor_script (s : State) (w n k : Nat) (hs : s.env.script = List.replicate w low ++ List.replicate n quietInputs)
    (hk : k < w + n) : LowFor s w k := by
  intro j hj
  unfold State.inputAt
  rw [hs, List.getElem?_append, List.length_replicate, List.getElem?_replicate, List.getElem?_replicate]
  by_cases h : j < w
  · simp [h, low, quietInputs]
  · have h2 : j - w < n := by omega
    simp [h, h2, quietInputs]

/-- A master low of `w` ticks in what is awaited. -/
def lowScript (w : Nat) : List Inputs := List.replicate w low ++ List.replicate 4 quietInputs

theorem inv_awaitingByte (w : Fin 5) : Inv (awaitingByte (lowScript w)) := by constructor <;> revert w <;> decide +kernel
theorem inv_awaitingSend (b : Bool) (w : Fin 5) : Inv (awaitingSend b (lowScript w)) := by
  constructor <;> revert b w <;> decide +kernel

theorem witness_o35 (w : Fin 5) (h : w.val = 1 ∨ w.val = 2 ∨ w.val = 3) :
    Inv (awaitingByte (lowScript w)) ∧ (awaitingByte (lowScript w)).cfg.inLatency = 0 ∧
    (awaitingByte (lowScript w)).te.phase = .start ∧ (awaitingByte (lowScript w)).te.dir = .recv ∧
    (awaitingByte (lowScript w)).prevS = true ∧ 1 ≤ w.val ∧ w.val ≤ (awaitingByte (lowScript w)).cfg.tSlotLowMax + 1 ∧
    LowFor (awaitingByte (lowScript w)) w (max (tiny.tSample + 1) w) := by
  have h2 : tiny.tSlotLowMax = 2 ∧ tiny.tSample = 1 := by decide
  exact ⟨inv_awaitingByte w, rfl, rfl, rfl, rfl, by omega, by show w.val ≤ tiny.tSlotLowMax + 1; omega,
    lowFor_script _ w 4 _ rfl (by omega)⟩

theorem witness_o36 (b : Bool) (w : Fin 5) (h : w.val = 1 ∨ w.val = 3) :
    Inv (awaitingSend b (lowScript w)) ∧ (awaitingSend b (lowScript w)).cfg.inLatency = 0 ∧
    (awaitingSend b (lowScript w)).te.phase = .start ∧ (awaitingSend b (lowScript w)).te.dir = .send ∧
    (awaitingSend b (lowScript w)).te.cur = b ∧ (awaitingSend b (lowScript w)).prevS = true ∧ 1 ≤ w.val ∧
    w.val ≤ (awaitingSend b (lowScript w)).cfg.tSlotLowMax + 1 ∧
    LowFor (awaitingSend b (lowScript w)) w (if b then w else max (tiny.tW0Low + 1) w) := by
  have h2 : tiny.tSlotLowMax = 2 ∧ tiny.tW0Low = 1 := by decide
  refine ⟨inv_awaitingSend b w, rfl, rfl, rfl, by cases b <;> rfl, rfl, by omega,
    by show w.val ≤ tiny.tSlotLowMax + 1; omega, lowFor_script _ w 4 _ rfl ?_⟩
  split <;> omega

theorem witness_o37 : Inv (awaitingByte (lowScript 4)) ∧ (awaitingByte (lowScript 4)).cfg.slotEndBounded = true ∧
    (awaitingByte (lowScript 4)).cfg.tSlotLowMax + 2 ≤ 4 ∧
    LowFor (awaitingByte (lowScript 4)) 4 ((awaitingByte (lowScript 4)).cfg.tSlotLowMax + 1) :=
  ⟨inv_awaitingByte 4, by decide, by decide, lowFor_script _ 4 4 _ rfl (by decide)⟩

theorem quiet_script (s : State) (n k : Nat) (hs : s.env.script = List.replicate n quietInputs) (hk : k ≤ n) : BusQuiet s k := by
  intro j hj
  unfold State.inputAt
  rw [hs, List.getElem?_replicate]
  have h : j < n := by omega
  simp [h, quietInputs]

theorem witness_o38 : Inv (awaitingSend true (lowScript 0)) ∧
    (awaitingSend true (lowScript 0)).dl = slotWait (awaitingSend true (lowScript 0)).cfg ∧
    (awaitingSend true (lowScript 0)).intClass ≠ 2 ∧
    BusQuiet (awaitingSend true (lowScript 0)) ((awaitingSend true (lowScript 0)).cfg.tSlotWait + 1) :=
  ⟨inv_awaitingSend true 0, by decide, by decide, quiet_script _ 4 _ rfl (by decide)⟩

/-- IDLE, with and without sleep, the line low or high, woken or not. -/
def idleAt (sleep woken : Bool) (line : Bool) (cls : BitVec 2) : State :=
  { fresh { tiny with hasSleep := sleep } [{ quietInputs with extLow := !line, wake := woken }] with intClass := cls }

theorem inv_idleAt (a b c : Bool) : Inv (idleAt a b c 2) := by constructor <;> revert a b c <;> decide +kernel

theorem witness_o39 : (idleAt false false false 2).edgeFall = true ∧ (idleAt true true false 2).lineS = false ∧
    (idleAt true true true 2).lineS = true ∧ (idleAt false false true 2).edgeFall = false ∧
    (idleAt true false true 2).inp.wake = false ∧ (idleAt true false true 2).cfg.hasInterruptSignal = true ∧
    (idleAt true false true 2).inp.rstN = true ∧ (idleAt true false true 2).st = .idle ∧
    (idleAt false false true 0).intClass ≠ 2 := by decide

/-- RESET_MEASURE with this deadline count; the width is 3 less the count. -/
def measuring (count : Int) (cls : BitVec 2) (line qualified : Bool) : State :=
  { inState .resetMeasure [{ quietInputs with extLow := !line }] with
    dl := ⟨count, true⟩, intClass := cls, rstQualified := qualified }

theorem inv_measuring (a b : Bool) : Inv (measuring 1 1 a b) ∧ Inv (measuring (-1) 0 a b) := by
  constructor <;> constructor <;> revert a b <;> decide +kernel

theorem witness_o40 : (measuring 1 1 true false).lineS = true ∧ (measuring 1 1 true false).resetWidth = 2 ∧
    (measuring 2 0 true true).rstQualified = true ∧ (measuring 2 0 true false).resetWidth = 1 ∧
    (measuring 1 1 false false).lineS = false ∧ (measuring 1 1 false false).cfg.hasInterruptSignal = true ∧
    (measuring (-1) 0 false false).dlRemaining < 0 ∧ (measuring 0 0 false false).dlRemaining = 0 := by decide

/-- A waiting state with `k` ticks left. -/
def waiting (x : EngineState) (k : Nat) : State := { inState x (lowScript 0) with dly := k }

theorem witness_o41 : (waiting .intStretch 2).st.delays = true ∧ (waiting .intStretch 2).dly ≠ 1 ∧
    (waiting .intStretch 1).dly = 1 ∧ (waiting .intPulse 1).st = .intPulse ∧ (waiting .presenceWait 1).st = .presenceWait ∧
    (waiting .presenceLow 1).st = .presenceLow ∧ (waiting .presenceLow 1).inp.rstN = true ∧
    (waiting .presenceLow 1).cfg.valid = true := by decide

/-- A master reset of `w` ticks from IDLE. -/
def resetLow (w : Nat) : State := inState .idle (lowScript w)

theorem inv_resetLow (w : Fin 6) : Inv (resetLow w) := by constructor <;> revert w <;> decide +kernel

theorem witness_o42 (w : Fin 6) (h : 1 ≤ w.val) : Inv (resetLow w) ∧ (resetLow w).cfg.hasSleep = false ∧ (resetLow w).st = .idle ∧
    (resetLow w).prevS = true ∧ (resetLow w).intClass = 0 ∧ 1 ≤ w.val ∧
    LowFor (resetLow w) w (min w (tiny.tResetDeadline + 1)) ∧
    (∀ j, j ≤ min w.val (tiny.tResetDeadline + 1) → ((resetLow w).inputAt j).condValid = false) := by
  have h2 : tiny.tResetDeadline = 3 := by decide
  have h3 : ∀ (w : Fin 6) (j : Fin 6), j.val ≤ w.val + 3 → ((resetLow w).inputAt j).condValid = false := by decide
  exact ⟨inv_resetLow w, rfl, rfl, rfl, rfl, h, lowFor_script _ w 4 _ rfl (by omega),
    fun j hj => h3 w ⟨j, by omega⟩ (by show j ≤ w.val + 3; omega)⟩

/-- The widths of O42's clauses: below `T_RESET_MIN`, at it, at `T_RESET_DEADLINE` + 1 and beyond. -/
theorem witness_o42_widths : 1 < tiny.tResetMin ∧ tiny.tResetMin = 2 ∧ tiny.tResetDeadline + 1 = 4 ∧ tiny.tResetDeadline + 2 = 5 := by
  decide

theorem inv_waiting : Inv (waiting .presenceWait 1) ∧ Inv (waiting .intStretch 2) ∧ Inv (waiting .intPulse 2) := by
  refine ⟨?_, ?_, ?_⟩ <;> constructor <;> decide +kernel

theorem witness_o43 : (waiting .presenceWait 1).st = .presenceWait ∧
    (waiting .presenceWait 1).dly = (waiting .presenceWait 1).cfg.tPdh ∧
    NoReset (waiting .presenceWait 1) ((waiting .presenceWait 1).cfg.tPdh + (waiting .presenceWait 1).cfg.tPdl) :=
  ⟨by decide, by decide, fun j hj => (quiet_script (waiting .presenceWait 1) 4 _ rfl (by decide) j hj).1⟩

theorem witness_o44 : (waiting .intStretch 2).st = .intStretch ∧ (waiting .intPulse 2).st = .intPulse ∧
    NoReset (waiting .intStretch 2) (waiting .intStretch 2).dly ∧ NoReset (waiting .intPulse 2) (waiting .intPulse 2).dly :=
  ⟨by decide, by decide, fun j hj => (quiet_script (waiting .intStretch 2) 4 _ rfl (by decide) j hj).1,
    fun j hj => (quiet_script (waiting .intPulse 2) 4 _ rfl (by decide) j hj).1⟩

theorem witness_o45 : tiny.dlMin ≤ -16 ∧ (inState .idle []).cfg = tiny ∧ 1 ≤ 19 ∧ tiny.dlMin ≤ ((3 : Nat) : Int) - 19 := by decide

theorem witness_o46 : FaultKind.timeSlotTimeout = .timeSlotTimeout ∧ askingBusy.te.phase ≠ .idle ∧ askingBusy.te.client = .dev ∧
    (inState .idle []).te.phase = .idle := by decide

theorem witness_o47_o48 : (measuring (-1) 0 false false).inp.rstN = true ∧
    (measuring (-1) 0 false false).raised = some .shortPulseTimeout ∧ (measuring 0 0 false false).raised = none ∧
    ∃ t, step (measuring (-1) 0 false false) = .next t :=
  ⟨by decide, by decide, by decide, isNext_iff.1 (by decide)⟩

theorem witness_o49 : (requesting 3 0 true).cfg.valid = true ∧ (requesting 3 0 true).inp.rstN = true ∧
    (requesting 3 0 true).inp.devEnd = true ∧ (requesting 3 0 true).st = .device ∧ (requesting 3 0 true).te.phase = .idle ∧
    askingBusy.inp.devEnd = true ∧ ¬(askingBusy.st = .device ∧ askingBusy.te.phase = .idle) := by decide

/-- IRQ_HOOK with or without its acknowledge. -/
def hooked (ack : Bool) : State := inState .irqHook [{ quietInputs with irqAck := ack }]

theorem inv_hooked (b : Bool) : Inv (hooked b) := by constructor <;> revert b <;> decide +kernel

theorem witness_o50 : (hooked true).st = .irqHook ∧ (hooked true).inp.rstN = true ∧ (hooked true).inp.irqAck = true ∧
    (hooked false).inp.irqAck = false ∧ askingInIdle.st ≠ .irqHook ∧ askingInIdle.inp.rstN = true := by decide

theorem witness_o51 : ¬((idleAt false true true 0).st = .idle ∧ (idleAt false true true 0).cfg.hasSleep = true) ∧
    (idleAt false true true 0).cfg.valid = true ∧ (inState .device [low]).st = .device ∧
    (inState .device [low]).te.phase = .idle ∧ (inState .device [low]).inp.xreqValid = false ∧
    (inState .device [low]).inp.devEnd = false ∧ (inState .device [low]).inp.rstN = true := by decide

theorem witness_o51_hook : (hooked true).st = .irqHook ∧ (hooked true).cfg.valid = true ∧ (hooked true).inp.rstN = true ∧
    (requesting 3 0 false).st = .device ∧ (requesting 3 0 false).te.phase = .idle ∧ (requesting 3 0 false).inp.rstN = true := by
  decide

theorem witness_o52 : (matching [{ quietInputs with condValid := true, condClass := 3, condAlarm := true }]).inp.rstN = true ∧
    (matching [{ quietInputs with condValid := true, condClass := 3, condAlarm := true }]).inp.condValid = true ∧
    ∃ t, step ((matching [{ quietInputs with condValid := true, condClass := 3, condAlarm := true }]).withInputs quietInputs) =
      .next t :=
  ⟨by decide, by decide, isNext_iff.1 (by decide +kernel)⟩

/-- A reset tick in ROM_EXEC, then two ticks without reset: the line high, then low. -/
def resetting : State := inState .romExec [{ low with rstN := false }, quietInputs, low]

theorem witness_o53 : resetting.cfg.valid = true ∧ resetting.inp.rstN = false ∧ resetting.blockReset.inp.rstN = true ∧
    resetting.cfg.hasSleep = false := by decide

theorem witness_o53_edge :
    after (step resetting.blockReset) (fun u => (u.st, u.edgeFall)) = some (.idle, true) ∧ resetting.blockReset.lineS = true := by
  decide +kernel

theorem witness_o54_o56 : Inv (hooked true) ∧ fixedRow (hooked true) .idle ∧ (∃ t, step (hooked true) = .next t) ∧
    Inv (matching [quietInputs]) ∧ (∃ t, step (matching [quietInputs]) = .next t) := by
  refine ⟨inv_hooked true, .inr ⟨by decide, ?_⟩, isNext_iff.1 (by decide), inv_matching, isNext_iff.1 (by decide +kernel)⟩
  iterate 14 refine .inr ?_
  exact .inl ⟨by decide, by decide, rfl⟩

theorem witness_o56_command : commandRow (matching [quietInputs]) .device ∧ commandRow (commandDone 0x00 [quietInputs]) .idle ∧
    lastOfCommand (searching 3 false) ∧ ¬lastOfCommand (searching 6 true) ∧
    lastOfCommand (echoing 7) ∧ ¬lastOfCommand (accepting []) := by
  refine ⟨⟨by decide, done_byte rfl rfl rfl rfl, .inr ⟨by decide, .inl ⟨by decide, by decide⟩, .inl rfl⟩⟩,
    ⟨by decide, command_completes _, .inl ⟨by decide, .inr (.inr rfl)⟩⟩, .inr ⟨by decide, by decide⟩, ?_,
    .inl ⟨by decide, by decide⟩, ?_⟩ <;> unfold lastOfCommand <;> decide

theorem witness_o55 : tiny.valid = true := by decide

theorem witness_o57 : (∃ t, step (hooked false) = .next t) ∧ (hooked false).inp.rstN = true ∧ (hooked false).cfg.valid = true ∧
    ∀ k, (hooked false).st ≠ .unused k :=
  ⟨isNext_iff.1 (by decide), by decide, by decide, by decide⟩

theorem witness_o57_refused :
    step { hooked false with cfg := { tiny with tWakeComp := 3 } } = .refused .badConfiguration ∧
    step { hooked false with st := .unused 5 } = .refused (.unreachableState 5) := ⟨rfl, rfl⟩

theorem witness_o59 : (0x00 : Byte) ≠ 0x80 := by decide

/-- The wait of IDLE with an input latency of one tick. -/
def delayed : State :=
  { inState .idle [low] with cfg := { Config.reference with inLatency := 1 }, env := ⟨[low], 1, [true]⟩ }

theorem witness_o58 : ∃ t, After delayed delayed.cfg.inLatency t := by
  obtain ⟨t, h⟩ := isNext_iff.1 (by decide : isNext (step delayed) = true)
  exact ⟨t, after_step.2 ⟨t, h, after_zero.2 rfl⟩⟩

end Sys2Proof.Tests
end

