-- ==== Sys2Proof/Proofs/Scope.lean ====
section
/-! PROOFS. The statements of 00_scope.md: what a step with a request runs, and what a step can answer. -/

namespace Sys2Proof.Machine

/-! ### The constraints of R12 -/

theorem valid_iff_constraints (c : Config) : c.valid = true ↔
    (1 ≤ c.tSample ∧ c.tSample < c.tSlotLowMax) ∧
    (1 ≤ c.tW0Low ∧ c.tW0Low + c.inLatency < c.tSlotLowMax) ∧
    (1 ≤ c.tResetMin ∧ c.tResetMin ≤ c.tResetDeadline) ∧
    c.tResetDeadline + 2 ≤ c.tIntStretch ∧
    c.tResetMin ≤ c.tIntPulse ∧
    c.tSlotLowMax < c.tResetDeadline ∧
    (1 ≤ c.tPdh ∧ 1 ≤ c.tPdl) ∧
    1 ≤ c.tSlotWait ∧
    c.tWakeComp < c.tResetDeadline ∧
    ∀ d ∈ [c.tSlotWait, c.tResetDeadline, c.tIntStretch, c.tIntPulse], d < 2 ^ (c.dlWidth - 1) - 1 := by
  simp [Config.valid, and_assoc]

/-! ### The request at the ports -/

theorem decode_xreqBytes (cfg : Config) (op : BitVec 3) (data : Byte) :
    decode cfg (xreqBytes op data) = .ok (decodeXreq op data) := by
  have hlt : (op.setWidth 8).toNat < 8 := by bv_omega
  have hop : (op.setWidth 8).setWidth 3 = op := BitVec.setWidth_setWidth_of_le op (by omega)
  unfold xreqBytes decode
  dsimp only
  rw [if_pos hlt, hop]

/-- The request acts as the instruction that its word of R104 decodes to (R261). -/
theorem requestTick_of_decode {s : State} {i : Instr} (hx : s.inp.xreqValid = true)
    (hi : decode s.cfg [s.inp.xreqData, s.inp.xreqOp.setWidth 8] = .ok i) (n : State) :
    requestTick s n = exec i n := by
  have hreq : s.requested = some i := by
    rw [State.requested, if_pos hx]
    exact congrArg some (Except.ok.inj ((decode_xreqBytes s.cfg s.inp.xreqOp s.inp.xreqData).symm.trans hi))
  simp only [requestTick, hreq]

/-- In an idle session the engine looks at `dev_end` alone (R265). -/
theorem engineTick_sessionWaits {s : State} (hs : s.st = .device) (hp : s.te.phase = .idle)
    (hd : s.inp.devEnd = false) (n : State) : engineTick s n = .next n := by
  simp [engineTick, deviceTick, hs, hp, hd]

/-! ### What the rules of a tick never write -/

/-- `t` has the configuration of `n` (R5) and its sample `prev_s`, which only the start of a tick writes (R42). -/
structure SameFrame (n t : State) : Prop where
  cfg : t.cfg = n.cfg
  prevS : t.prevS = n.prevS

namespace SameFrame

theorem refl (n : State) : SameFrame n n := ⟨rfl, rfl⟩

theorem trans {n m t : State} (h₁ : SameFrame n m) (h₂ : SameFrame m t) : SameFrame n t :=
  ⟨h₂.cfg.trans h₁.cfg, h₂.prevS.trans h₁.prevS⟩

theorem ite {p : Prop} [Decidable p] {n a b : State} (ha : SameFrame n a) (hb : SameFrame n b) :
    SameFrame n (if p then a else b) := by
  split
  · exact ha
  · exact hb

end SameFrame

theorem raiseFault_sameFrame (f : FaultKind) (n : State) : SameFrame n (n.raiseFault f) :=
  ⟨n.raiseFault_cfg f, n.raiseFault_prevS f⟩

/-! #### Instructions -/

theorem request_sameFrame (op : Option TransferOp) (data : Byte) (n : State) : SameFrame n (n.request op data) := by
  obtain ⟨_, e⟩ | ⟨_, _, e⟩ | ⟨_, _, _, e⟩ | ⟨_, _, _, _, _, e⟩ := request_cases op data n <;>
    rw [e] <;> exact ⟨rfl, rfl⟩

theorem searchNext_sameFrame (n : State) : SameFrame n n.searchNext :=
  .ite ⟨rfl, rfl⟩ (.ite ⟨rfl, rfl⟩ ⟨rfl, rfl⟩)

theorem sendNext_sameFrame {last : State → State} {n : State} (h : SameFrame n (last n)) :
    SameFrame n (n.sendNext last) := .ite h ⟨rfl, rfl⟩

theorem readRomEnd_sameFrame (n : State) : SameFrame n n.readRomEnd := .ite ⟨rfl, rfl⟩ ⟨rfl, rfl⟩

theorem matchNext_sameFrame (n : State) : SameFrame n n.matchNext := .ite (.ite ⟨rfl, rfl⟩ ⟨rfl, rfl⟩) ⟨rfl, rfl⟩

theorem writeNext_sameFrame (n : State) : SameFrame n n.writeNext := by
  unfold State.writeNext
  cases n.rom.step with
  | rx => exact .ite (.ite ⟨rfl, rfl⟩ ⟨rfl, rfl⟩) ⟨rfl, rfl⟩
  | tx => exact sendNext_sameFrame ⟨rfl, rfl⟩

theorem exec_sameFrame {i : Instr} {n t : State} (h : exec i n = .next t) : SameFrame n t := by
  cases i <;> obtain rfl := Host.Outcome.next.inj h
  case searchRom => exact .ite (searchNext_sameFrame n) ⟨rfl, rfl⟩
  case readRom => exact .ite (sendNext_sameFrame (readRomEnd_sameFrame n)) ⟨rfl, rfl⟩
  case readRom0F => exact .ite (sendNext_sameFrame (readRomEnd_sameFrame n)) ⟨rfl, rfl⟩
  case matchRom => exact .ite (matchNext_sameFrame n) ⟨rfl, rfl⟩
  case skipRom => exact ⟨rfl, rfl⟩
  case writeRom => exact .ite (writeNext_sameFrame n) ⟨rfl, rfl⟩
  case condSearch => exact .ite (searchNext_sameFrame n) (.ite ⟨rfl, rfl⟩ ⟨rfl, rfl⟩)
  case resume => exact .ite ⟨rfl, rfl⟩ ⟨rfl, rfl⟩
  case unrecognized => exact ⟨rfl, rfl⟩
  all_goals exact request_sameFrame _ _ n

theorem requestTick_sameFrame {s n t : State} (h : requestTick s n = .next t) : SameFrame n t := by
  unfold requestTick at h
  split at h
  · obtain rfl := Host.Outcome.next.inj h
    exact .refl n
  · exact exec_sameFrame h

/-! #### The transfer engine -/

theorem delayTick_sameFrame {s n : State} {exit : State → State} (h : SameFrame n (exit n)) :
    SameFrame n (delayTick s n exit) := .ite h ⟨rfl, rfl⟩

theorem slotStart_sameFrame (n : State) : SameFrame n (slotStart n) := by
  obtain ⟨_, e⟩ | ⟨_, _, e⟩ | ⟨_, _, e⟩ := slotStart_cases n <;> rw [e] <;> exact ⟨rfl, rfl⟩

theorem pulseFromStart_sameFrame (n : State) : SameFrame n (pulseFromStart n) :=
  ⟨n.abortTransfer_cfg, n.abortTransfer_prevS⟩

theorem startTick_sameFrame (s n : State) : SameFrame n (startTick s n) :=
  .ite (slotStart_sameFrame n) (.ite (pulseFromStart_sameFrame n) (.ite (raiseFault_sameFrame _ n) (.refl n)))

theorem deliver_completeSlot_sameFrame {n t : State} (h : deliver (completeSlot n) = .next t) : SameFrame n t := by
  obtain ⟨cnt, tri, sr, e⟩ | ⟨status, data, sr, e⟩ := completeSlot_cases n <;> rw [e] at h
  · obtain rfl := Host.Outcome.next.inj h
    exact ⟨rfl, rfl⟩
  · unfold deliver at h
    dsimp only at h
    split at h
    · obtain rfl := Host.Outcome.next.inj h
      exact ⟨rfl, rfl⟩
    · have hexec := exec_sameFrame h
      exact ⟨hexec.cfg, hexec.prevS⟩

theorem endingTick_sameFrame {s n t : State} (h : endingTick s n = .next t) : SameFrame n t := by
  unfold endingTick at h
  split at h
  · exact deliver_completeSlot_sameFrame h
  · split at h <;> obtain rfl := Host.Outcome.next.inj h
    · exact raiseFault_sameFrame _ n
    · exact .refl n

theorem teTick_sameFrame {s n t : State} (h : teTick s n = .next t) : SameFrame n t := by
  unfold teTick at h
  cases hp : s.te.phase <;> rw [hp] at h
  case ending => exact endingTick_sameFrame h
  all_goals obtain rfl := Host.Outcome.next.inj h
  case idle => exact .refl n
  case start => exact startTick_sameFrame s n
  case act => exact delayTick_sameFrame ⟨rfl, rfl⟩

/-! #### The engine states -/

theorem idleTick_sameFrame (s n : State) : SameFrame n (idleTick s n) := by
  have hquiet : SameFrame n (idleQuiet s n) := .ite ⟨rfl, rfl⟩ (.refl n)
  have hasleep : SameFrame n (idleAsleep s n) := .ite (.ite (raiseFault_sameFrame _ n) ⟨rfl, rfl⟩) hquiet
  exact .ite hasleep (.ite ⟨rfl, rfl⟩ hquiet)

theorem resetMeasureTick_sameFrame (s n : State) : SameFrame n (resetMeasureTick s n) :=
  .ite (.ite ⟨rfl, rfl⟩ (raiseFault_sameFrame _ n)) (.ite ⟨rfl, rfl⟩ (.ite (raiseFault_sameFrame _ n) (.refl n)))

theorem deviceTick_sameFrame {s n t : State} (h : deviceTick s n = .next t) : SameFrame n t := by
  unfold deviceTick at h
  split at h
  · obtain rfl := Host.Outcome.next.inj h
    exact .ite ⟨rfl, rfl⟩ (.refl n)
  · exact teTick_sameFrame h

theorem engineTick_sameFrame {s n t : State} (h : engineTick s n = .next t) : SameFrame n t := by
  unfold engineTick at h
  cases hs : s.st <;> rw [hs] at h
  case romCmd => exact teTick_sameFrame h
  case romExec => exact teTick_sameFrame h
  case device => exact deviceTick_sameFrame h
  case unused => cases h
  all_goals obtain rfl := Host.Outcome.next.inj h
  case idle => exact idleTick_sameFrame s n
  case resetMeasure => exact resetMeasureTick_sameFrame s n
  case irqHook => exact .ite ⟨rfl, rfl⟩ (.refl n)
  all_goals exact delayTick_sameFrame ⟨rfl, rfl⟩

/-! ### What a step answers -/

theorem step_cfg {s t : State} (h : step s = .next t) : t.cfg = s.cfg := by
  obtain ⟨_, ⟨_, rfl⟩ | ⟨_, n, m, hn, hm, rfl⟩⟩ := step_cases h
  · rfl
  · exact (s.endTick_cfg m).trans ((requestTick_sameFrame hn).trans (engineTick_sameFrame hm)).cfg

/-- Without block reset the sample of the tick is kept for the next edge (R42). -/
theorem step_prevS {s t : State} (hr : s.inp.rstN = true) (h : step s = .next t) : t.prevS = s.lineS := by
  obtain ⟨_, ⟨hr', _⟩ | ⟨_, n, m, hn, hm, rfl⟩⟩ := step_cases h
  · simp [hr] at hr'
  · exact (s.endTick_prevS m).trans ((requestTick_sameFrame hn).trans (engineTick_sameFrame hm)).prevS

theorem step_unused {s : State} {k : Fin 6} (hv : s.cfg.valid = true) (hr : s.inp.rstN = true) (hk : s.st = .unused k) :
    step s = .refused (.unreachableState k) := by
  rw [step_base hv hr (by simp [hk])]
  simp [engineTick, hk, andThen]

theorem used_iff (x : EngineState) : x.used = true ↔ ∀ k, x ≠ .unused k := by
  cases x <;> simp [EngineState.used]

theorem step_total {s : State} (hv : s.cfg.valid = true) (h : s.inp.rstN = false ∨ ∀ k, s.st ≠ .unused k) :
    ∃ t, step s = .next t := by
  cases hr : s.inp.rstN with
  | false => exact ⟨_, step_blockReset hv hr⟩
  | true =>
    have hu : s.st.used = true := (used_iff s.st).2 (h.resolve_left (by simp [hr]))
    obtain ⟨n, hn⟩ := requestTick_total s s.beginTick
    obtain ⟨m, hm⟩ := engineTick_total s n hu
    exact ⟨s.endTick m, by rw [step_run hv hr, runTick, hn, andThen, hm, andThen]⟩

/-- The three answers of a step, each with the condition under which it is given; the conditions exclude each other. -/
theorem step_answers (s : State) :
    (s.cfg.valid = false ∧ step s = .refused .badConfiguration) ∨
    (s.cfg.valid = true ∧ s.inp.rstN = true ∧ ∃ k, s.st = .unused k ∧ step s = .refused (.unreachableState k)) ∨
    (s.cfg.valid = true ∧ (s.inp.rstN = false ∨ ∀ k, s.st ≠ .unused k) ∧ ∃ t, step s = .next t) := by
  cases hv : s.cfg.valid with
  | false => exact .inl ⟨rfl, step_badConfiguration hv⟩
  | true =>
    by_cases h : s.inp.rstN = false ∨ ∀ k, s.st ≠ .unused k
    · exact .inr (.inr ⟨rfl, h, step_total hv h⟩)
    · obtain ⟨hr, k, hk⟩ : s.inp.rstN = true ∧ ∃ k, s.st = .unused k := by simpa using h
      exact .inr (.inl ⟨rfl, hr, k, hk, step_unused hv hr hk⟩)

theorem step_badConfiguration_iff (s : State) : step s = .refused .badConfiguration ↔ s.cfg.valid = false := by
  obtain ⟨hv, e⟩ | ⟨hv, _, k, _, e⟩ | ⟨hv, _, t, e⟩ := step_answers s <;> simp [hv, e]

theorem step_unreachableState_iff (s : State) (k : Fin 6) :
    step s = .refused (.unreachableState k) ↔ s.cfg.valid = true ∧ s.inp.rstN = true ∧ s.st = .unused k := by
  obtain ⟨hv, e⟩ | ⟨hv, hr, j, hj, e⟩ | ⟨hv, h, t, e⟩ := step_answers s
  · simp [hv, e]
  · simp [hv, hr, hj, e]
  · rw [e]
    refine ⟨fun hn => (nomatch hn), fun ⟨_, hr, hk⟩ => ?_⟩
    exact (h.resolve_left (by simp [hr]) k hk).elim

theorem step_next_iff (s : State) :
    (∃ t, step s = .next t) ↔ s.cfg.valid = true ∧ (s.inp.rstN = false ∨ ∀ k, s.st ≠ .unused k) := by
  obtain ⟨hv, e⟩ | ⟨hv, hr, k, hk, e⟩ | ⟨hv, h, t, e⟩ := step_answers s
  · simp [hv, e]
  · simp [hr, hk, e]
  · exact ⟨fun _ => ⟨hv, h⟩, fun _ => ⟨t, e⟩⟩

/-! ### The statements -/

/-- Settles O7: the request is `exec` of the decoded word, and an idle session's rule does nothing. -/
theorem stepRunsTheRequest : Obligations.StepRunsTheRequest := by
  intro s i hv hr hx hi
  have hstep : step s = andThen (exec i s.beginTick) fun n => andThen (engineTick s n) fun m => .next (s.endTick m) := by
    rw [step_run hv hr, runTick, requestTick_of_decode hx hi]
  refine ⟨hstep, fun n hs hp hd hn => ?_⟩
  rw [hstep, hn, andThen, engineTick_sessionWaits hs hp hd, andThen]

/-- Settles O57, from the three answers of a step and the frame of its rules. -/
theorem stepOutcomes : Obligations.StepOutcomes := by
  intro s c meets
  have hmeets : s.cfg.valid = true ↔ meets := valid_iff_constraints s.cfg
  rw [← hmeets, Bool.not_eq_true]
  exact ⟨fun r => (nomatch r), step_badConfiguration_iff s, step_unreachableState_iff s, step_next_iff s,
    fun t h => ⟨step_cfg h, step_env h, fun hr => step_prevS hr h⟩⟩

end Sys2Proof.Machine
end

/-! PROOFS. The statements of 10_state.md: the rule that acts at a tick, the invariant of the registers, who writes the
identity, `resume_eligible` and `fault_code`, block reset, the interrupt hook, the sampled line and the output ports. -/

namespace Sys2Proof.Machine

/-! ### The rule that acts at a tick -/

/-- The rules of R302, one constructor each, with the condition under which it acts at a tick without block reset and
the state it writes; the end of the tick is `State.endTick`. -/
inductive TickRule (s : State) : State → Prop
  | resetEdge (hs : s.st = .idle) (hb : s.cfg.hasSleep = false) (he : s.edgeFall = true) :
      TickRule s (s.base.startMeasure s.cfg.tResetDeadline)
  | wakeLow (hs : s.st = .idle) (hb : s.cfg.hasSleep = true) (hw : s.inp.wake = true) (hl : s.lineS = false) :
      TickRule s (s.base.startMeasure (s.cfg.tResetDeadline - s.cfg.tWakeComp))
  | wakeHigh (hs : s.st = .idle) (hb : s.cfg.hasSleep = true) (hw : s.inp.wake = true) (hl : s.lineS = true) :
      TickRule s (s.base.raiseFault .externallyInterrupted)
  | idlePulse (hs : s.st = .idle) (hc : s.class2Pending = true) (he : s.cfg.hasSleep = false → s.edgeFall = false)
      (hw : s.cfg.hasSleep = true → s.inp.wake = false) : TickRule s s.base.enterIntPulse
  | idleWaits (hs : s.st = .idle) (hc : s.class2Pending = false) (he : s.cfg.hasSleep = false → s.edgeFall = false)
      (hw : s.cfg.hasSleep = true → s.inp.wake = false) : TickRule s s.base
  | resetEnds (hs : s.st = .resetMeasure) (hl : s.lineS = true)
      (hw : s.rstQualified = true ∨ (s.cfg.tResetMin : Int) ≤ s.resetWidth) : TickRule s s.base.endReset
  | resetShort (hs : s.st = .resetMeasure) (hl : s.lineS = true) (hq : s.rstQualified = false)
      (hw : s.resetWidth < (s.cfg.tResetMin : Int)) : TickRule s (s.base.raiseFault .resetTooShort)
  | resetStretches (hs : s.st = .resetMeasure) (hl : s.lineS = false) (hc : s.class1Pending = true)
      (hq : s.rstQualified = false) (hw : (s.cfg.tResetMin : Int) ≤ s.resetWidth) :
      TickRule s (s.base.enterStretch s.resetWidth)
  | resetLong (hs : s.st = .resetMeasure) (hl : s.lineS = false) (hd : s.dlRemaining < 0)
      (hc : ¬(s.class1Pending = true ∧ s.rstQualified = false ∧ (s.cfg.tResetMin : Int) ≤ s.resetWidth)) :
      TickRule s (s.base.raiseFault .shortPulseTimeout)
  | resetGoesOn (hs : s.st = .resetMeasure) (hl : s.lineS = false) (hd : 0 ≤ s.dlRemaining)
      (hc : ¬(s.class1Pending = true ∧ s.rstQualified = false ∧ (s.cfg.tResetMin : Int) ≤ s.resetWidth)) :
      TickRule s s.base
  | delayGoesOn (hs : s.st.delays = true) (hd : s.dly ≠ 1) : TickRule s { s.base with dly := s.dly - 1 }
  | stretchEnds (hs : s.st = .intStretch) (hd : s.dly = 1) : TickRule s s.base.endStretch
  | pulseEnds (hs : s.st = .intPulse) (hd : s.dly = 1) : TickRule s s.base.endPulse
  | presenceStarts (hs : s.st = .presenceWait) (hd : s.dly = 1) : TickRule s s.base.startPresence
  | presenceEnds (hs : s.st = .presenceLow) (hd : s.dly = 1) : TickRule s s.base.startCommand
  | hookLeaves (hs : s.st = .irqHook) (ha : s.inp.irqAck = true) : TickRule s s.base.leaveIrqHook
  | hookWaits (hs : s.st = .irqHook) (ha : s.inp.irqAck = false) : TickRule s s.base
  | requestBegins (hs : s.st = .device) (hp : s.te.phase = .idle) (hd : s.inp.devEnd = false) (op : TransferOp)
      (data : Byte) : TickRule s (s.beginTick.teBegin op data .dev)
  | sessionEnds (hs : s.st = .device) (hp : s.te.phase = .idle) (hd : s.inp.devEnd = true) (n : State)
      (hn : n = s.beginTick ∨ n = s.beginTick.respond .refused 0) : TickRule s n.endSession
  | sessionWaits (hs : s.st = .device) (hp : s.te.phase = .idle) (hd : s.inp.devEnd = false) (n : State)
      (hn : n = s.beginTick ∨ n = s.beginTick.respond .refused 0) : TickRule s n
  | transferMissing (hs : s.st = .romCmd ∨ s.st = .romExec) (hp : s.te.phase = .idle) : TickRule s s.base
  | slotStarts (hs : s.st.runsTe = true) (hp : s.te.phase = .start) (he : s.edgeFall = true) :
      TickRule s (slotStart s.base)
  | slotPulse (hs : s.st.runsTe = true) (hp : s.te.phase = .start) (he : s.edgeFall = false)
      (hc : s.class2Pending = true) : TickRule s (pulseFromStart s.base)
  | slotTimeout (hs : s.st.runsTe = true) (hp : s.te.phase = .start) (he : s.edgeFall = false)
      (hc : s.class2Pending = false) (hd : s.dlRemaining < 0) : TickRule s (s.base.raiseFault .timeSlotTimeout)
  | slotWaits (hs : s.st.runsTe = true) (hp : s.te.phase = .start) (he : s.edgeFall = false)
      (hc : s.class2Pending = false) (hd : 0 ≤ s.dlRemaining) : TickRule s s.base
  | actGoesOn (hs : s.st.runsTe = true) (hp : s.te.phase = .act) (hd : s.dly ≠ 1) :
      TickRule s { s.base with dly := s.dly - 1 }
  | actEnds (hs : s.st.runsTe = true) (hp : s.te.phase = .act) (hd : s.dly = 1) : TickRule s (actEnd s s.base)
  | slotOverlong (hs : s.st.runsTe = true) (hp : s.te.phase = .ending) (hl : s.lineS = false)
      (hb : s.cfg.slotEndBounded = true) (hd : s.dlRemaining < 0) : TickRule s (s.base.raiseFault .slotOverlongPulse)
  | endWaits (hs : s.st.runsTe = true) (hp : s.te.phase = .ending) (hl : s.lineS = false)
      (hb : ¬(s.cfg.slotEndBounded = true ∧ s.dlRemaining < 0)) : TickRule s s.base
  | slotFollows (hs : s.st.runsTe = true) (hp : s.te.phase = .ending) (hl : s.lineS = true) (hc : ¬opCompletes s)
      (m : State) (hm : completeSlot s.base = .more m) : TickRule s m
  | deviceAnswered (hs : s.st.runsTe = true) (hc : opCompletes s) (hd : s.te.client = .dev) (status : Status)
      (data : Byte) : TickRule s (s.finished.respond status data)
  | commandActs (hs : s.st.runsTe = true) (hc : opCompletes s) (hd : s.te.client = .rom) (m : State)
      (hm : exec s.finished.commandAt s.finished = .next m) : TickRule s m

theorem idleTick_tickRule {s : State} (hs : s.st = .idle) : TickRule s (idleTick s s.base) := by
  obtain ⟨hb, he, e⟩ | ⟨hb, hw, hl, e⟩ | ⟨hb, hw, hl, e⟩ | ⟨hc, he, hw, e⟩ | ⟨hc, he, hw, e⟩ :=
    idleTick_cases s s.base <;> rw [e]
  · exact s.base_cfg ▸ .resetEdge hs hb he
  · exact s.base_cfg ▸ .wakeLow hs hb hw hl
  · exact .wakeHigh hs hb hw hl
  · exact .idlePulse hs hc he hw
  · exact .idleWaits hs hc he hw

theorem resetMeasureTick_tickRule {s : State} (hs : s.st = .resetMeasure) :
    TickRule s (resetMeasureTick s s.base) := by
  obtain ⟨hl, hw, e⟩ | ⟨hl, hq, hw, e⟩ | ⟨hl, hc, hq, hw, e⟩ | ⟨hl, hd, hc, e⟩ | ⟨hl, hd, hc, e⟩ :=
    resetMeasureTick_cases s s.base <;> rw [e]
  · exact .resetEnds hs hl hw
  · exact .resetShort hs hl hq hw
  · exact .resetStretches hs hl hc hq hw
  · exact .resetLong hs hl hd hc
  · exact .resetGoesOn hs hl hd hc

theorem delayTick_tickRule {s : State} {exit : State → State} (hs : s.st.delays = true)
    (hexit : s.dly = 1 → TickRule s (exit s.base)) : TickRule s (delayTick s s.base exit) := by
  obtain ⟨hd, e⟩ | ⟨hd, e⟩ := delayTick_cases s s.base exit <;> rw [e]
  · exact hexit hd
  · exact .delayGoesOn hs hd

theorem startTick_tickRule {s : State} (hs : s.st.runsTe = true) (hp : s.te.phase = .start) :
    TickRule s (startTick s s.base) := by
  obtain ⟨he, e⟩ | ⟨he, hc, e⟩ | ⟨he, hc, hd, e⟩ | ⟨he, hc, hd, e⟩ := startTick_cases s s.base <;> rw [e]
  · exact .slotStarts hs hp he
  · exact .slotPulse hs hp he hc
  · exact .slotTimeout hs hp he hc hd
  · exact .slotWaits hs hp he hc hd

theorem actTick_tickRule {s : State} (hs : s.st.runsTe = true) (hp : s.te.phase = .act) :
    TickRule s (actTick s s.base) := by
  obtain ⟨hd, e⟩ | ⟨hd, e⟩ := delayTick_cases s s.base (actEnd s) <;> rw [actTick, e]
  · exact .actEnds hs hp hd
  · exact .actGoesOn hs hp hd

theorem endingTick_tickRule {s m : State} (hs : s.st.runsTe = true) (hp : s.te.phase = .ending)
    (h : endingTick s s.base = .next m) : TickRule s m := by
  unfold endingTick at h
  split at h
  next hl =>
    by_cases hc : opCompletes s
    · obtain ⟨status, data, e⟩ := completeSlot_done hc
      rw [e] at h
      cases hd : s.te.client with
      | dev =>
        obtain rfl : s.finished.respond status data = m := by simpa [deliver, State.finished, hd] using h
        exact .deviceAnswered hs hc hd status data
      | rom => exact .commandActs hs hc hd m (by simpa [deliver, State.finished, hd] using h)
    · obtain ⟨cnt, tri, sr, e⟩ := completeSlot_more hp hl hc
      rw [e] at h
      exact .slotFollows hs hp hl hc m (e.trans (congrArg SlotResult.more (Host.Outcome.next.inj h)))
  next hl =>
    have hl : s.lineS = false := by simpa using hl
    split at h <;> obtain rfl := Host.Outcome.next.inj h
    next hb => exact .slotOverlong hs hp hl hb.1 hb.2
    next hb => exact .endWaits hs hp hl hb

theorem teTick_tickRule {s m : State} (hs : s.st.runsTe = true) (hd : ¬(s.st = .device ∧ s.te.phase = .idle))
    (h : teTick s s.base = .next m) : TickRule s m := by
  unfold teTick at h
  cases hp : s.te.phase <;> rw [hp] at h
  case ending => exact endingTick_tickRule hs hp h
  all_goals obtain rfl := Host.Outcome.next.inj h
  case idle =>
    refine .transferMissing ?_ hp
    simpa [EngineState.runsTe, show s.st ≠ .device from fun e => hd ⟨e, hp⟩] using hs
  case start => exact startTick_tickRule hs hp
  case act => exact actTick_tickRule hs hp

theorem engineTick_tickRule {s m : State} (hd : ¬(s.st = .device ∧ s.te.phase = .idle))
    (h : engineTick s s.base = .next m) : TickRule s m := by
  unfold engineTick at h
  cases hs : s.st <;> rw [hs] at h
  case romCmd => exact teTick_tickRule (by simp [hs, EngineState.runsTe]) hd h
  case romExec => exact teTick_tickRule (by simp [hs, EngineState.runsTe]) hd h
  case device =>
    rw [deviceTick, if_neg fun hp => hd ⟨hs, hp⟩] at h
    exact teTick_tickRule (by simp [hs, EngineState.runsTe]) hd h
  case unused => cases h
  all_goals obtain rfl := Host.Outcome.next.inj h
  case idle => exact idleTick_tickRule hs
  case resetMeasure => exact resetMeasureTick_tickRule hs
  case intStretch => exact delayTick_tickRule (by simp [hs, EngineState.delays]) (.stretchEnds hs)
  case intPulse => exact delayTick_tickRule (by simp [hs, EngineState.delays]) (.pulseEnds hs)
  case presenceWait => exact delayTick_tickRule (by simp [hs, EngineState.delays]) (.presenceStarts hs)
  case presenceLow => exact delayTick_tickRule (by simp [hs, EngineState.delays]) (.presenceEnds hs)
  case irqHook =>
    unfold irqHookTick
    split
    next ha => exact .hookLeaves hs ha
    next ha => exact .hookWaits hs (by simpa using ha)

/-- In an idle session the request acts first, and then the engine looks at `dev_end` alone (R261 to R265). -/
theorem sessionTick_tickRule {s n m : State} (hs : s.st = .device) (hp : s.te.phase = .idle)
    (hn : requestTick s s.beginTick = .next n) (hm : engineTick s n = .next m) : TickRule s m := by
  have hm : m = if s.inp.devEnd then n.endSession else n := by
    simpa [engineTick, deviceTick, hs, hp] using hm.symm
  have hends : (n = s.beginTick ∨ n = s.beginTick.respond .refused 0) → TickRule s m := fun hn => by
    rw [hm]
    split
    next hd => exact .sessionEnds hs hp hd n hn
    next hd => exact .sessionWaits hs hp (by simpa using hd) n hn
  obtain ⟨e, _⟩ | ⟨_, e, _⟩ | ⟨_, _, _, hd, op, data, e⟩ := requestTick_cases hn
  · exact hends (.inl e)
  · exact hends (.inr e)
  · have hd : s.inp.devEnd = false := hd
    rw [hm, e, hd]
    exact .requestBegins hs hp hd op data

/-- Everything a tick without block reset can do. -/
theorem step_tickRule {s t : State} (hr : s.inp.rstN = true) (h : step s = .next t) :
    ∃ m, TickRule s m ∧ t = s.endTick m := by
  obtain ⟨hv, ⟨hr', _⟩ | ⟨_, n, m, hn, hm, rfl⟩⟩ := step_cases h
  · simp [hr] at hr'
  · refine ⟨m, ?_, rfl⟩
    by_cases hd : s.st = .device ∧ s.te.phase = .idle
    · exact sessionTick_tickRule hd.1 hd.2 hn hm
    · obtain rfl : s.base = n := Host.Outcome.next.inj ((requestTick_base hd).symm.trans hn)
      exact engineTick_tickRule hd hm

/-! ### The invariant, sorted by engine state -/

/-- The deadline timer's part of the invariant (R40, R138). -/
structure DeadlineOk (cfg : Config) (d : Deadline) : Prop where
  low : cfg.dlMin ≤ d.count
  high : d.count < ((2 ^ (cfg.dlWidth - 1) : Nat) : Int)
  off : d.armed = false → d.count = -1

/-- The slot indices' part of the invariant (R44, R170, R179). -/
structure SlotIndexOk (op : TransferOp) (cnt : BitVec 3) (tri : BitVec 2) : Prop where
  triLe : tri.toNat ≤ 2
  triZero : op ≠ .searchBit → op ≠ .searchByte → tri = 0
  bitIndex : op = .recvBit ∨ op = .sendBit ∨ op = .searchBit → cnt = 0

/-- The part of the invariant that is the same in every engine state, over the registers it speaks of. -/
structure SteadyRegs (cfg : Config) (id : ByteFile) (cls : BitVec 2) (dl : Deadline) (op : TransferOp) (cnt : BitVec 3)
    (tri : BitVec 2) (rsp : Response) : Prop where
  valid : cfg.valid = true
  crc : id[7] = crc8 (firstSeven id)
  cls : cls ≠ 3
  deadline : DeadlineOk cfg dl
  slot : SlotIndexOk op cnt tri
  response : rsp.valid = false → rsp.status = .ok ∧ rsp.data = 0

/-- The registers of `s` meet the steady part. -/
def Steady (s : State) : Prop := SteadyRegs s.cfg s.id s.intClass s.dl s.te.op s.te.cnt s.te.tri s.rsp

/-- No operation runs, and the interrupt window is closed (R38, R302). -/
def State.teOff (s : State) : Prop := s.te.phase = .idle ∧ s.intArmed = false

/-- The registers while an operation of client `c` runs (R38, R135, R302). -/
structure RunningRegs (c : Client) (te : TransferEngine) (intArmed : Bool) (dly : Nat) : Prop where
  runs : te.phase ≠ .idle
  client : te.client = c
  armed : intArmed = true ↔ te.phase = .start
  acting : te.phase = .act → 1 ≤ dly

/-- An operation of client `c` runs in `s`. -/
def State.teOn (c : Client) (s : State) : Prop := RunningRegs c s.te s.intArmed s.dly

/-- The part of the invariant that the engine state `x` has of its own. -/
def ControlAt (x : EngineState) (s : State) : Prop :=
  match x with
  | .idle => s.teOff ∧ s.awaitingReset = true ∧ s.rstQualified = false ∧ s.dl.armed = false
  | .resetMeasure => s.teOff ∧ s.awaitingReset = false ∧ s.dl.armed = true ∧ -1 ≤ s.dl.count
  | .intStretch => s.teOff ∧ s.awaitingReset = false ∧ 1 ≤ s.dly
  | .intPulse => s.teOff ∧ s.awaitingReset = false ∧ s.rstQualified = false ∧ 1 ≤ s.dly
  | .presenceWait => s.teOff ∧ s.awaitingReset = false ∧ s.rstQualified = false ∧ 1 ≤ s.dly ∧ s.dl.armed = false
  | .presenceLow => s.teOff ∧ s.awaitingReset = false ∧ s.rstQualified = false ∧ 1 ≤ s.dly
  | .romCmd => s.teOn .rom ∧ s.awaitingReset = false ∧ s.rstQualified = false ∧ s.te.op = .recvByte
  | .romExec => s.teOn .rom ∧ s.awaitingReset = false ∧ s.rstQualified = false ∧
      romExecOp (decodeRomCmd s.cfg s.rom.cmd) s.rom.step = some s.te.op
  | .device => (s.teOff ∧ s.dl.armed = false ∨ s.teOn .dev) ∧ s.awaitingReset = false ∧ s.rstQualified = false
  | .irqHook => s.teOff ∧ s.awaitingReset = true ∧ s.rstQualified = false ∧ s.dl.armed = false
  | .unused _ => False

/-- The part of the invariant that the engine state of `s` has of its own. -/
def Control (s : State) : Prop := ControlAt s.st s

theorem ControlAt.control {s : State} {x : EngineState} (hc : ControlAt x s) (hs : s.st = x) : Control s := by
  subst hs
  exact hc

theorem Inv.steady {s : State} (h : Inv s) : Steady s :=
  ⟨h.valid, h.crc, h.cls, ⟨h.dlRange.1, h.dlRange.2, h.dlOff⟩, ⟨h.tri.1, h.tri.2, h.bitIndex⟩, h.response⟩

theorem Inv.teOff {s : State} (h : Inv s) (hs : s.st.runsTe = false) : s.teOff := by
  have hp : s.te.phase = .idle := by
    by_contra hp
    simp [h.teRuns hp] at hs
  exact ⟨hp, by simpa [hp] using h.armed⟩

theorem Inv.teOn {s : State} {c : Client} (h : Inv s) (hp : s.te.phase ≠ .idle) (hc : c = .dev ↔ s.st = .device) :
    s.teOn c := by
  refine ⟨hp, ?_, h.armed, fun ha => h.delaying (.inr ha)⟩
  have hclient := (h.client hp).trans hc.symm
  cases hsc : s.te.client <;> cases c <;> simp_all

theorem Inv.control {s : State} (h : Inv s) : Control s := by
  have hoff := h.teOff
  have hawait := h.awaiting
  have hqual := h.qualified
  have hdelay := h.delaying
  have hdl := h.dlStopped
  unfold Control ControlAt
  cases hs : s.st <;> simp only [hs, EngineState.delays] at hoff hawait hqual hdelay hdl ⊢
  case idle => exact ⟨hoff rfl, by simpa using hawait, by simpa using hqual, by simpa using hdl⟩
  case irqHook => exact ⟨hoff rfl, by simpa using hawait, by simpa using hqual, by simpa using hdl⟩
  case resetMeasure => exact ⟨hoff rfl, by simpa using hawait, h.measuring hs⟩
  case intStretch => exact ⟨hoff rfl, by simpa using hawait, by simpa using hdelay⟩
  case intPulse => exact ⟨hoff rfl, by simpa using hawait, by simpa using hqual, by simpa using hdelay⟩
  case presenceWait =>
    exact ⟨hoff rfl, by simpa using hawait, by simpa using hqual, by simpa using hdelay, by simpa using hdl⟩
  case presenceLow => exact ⟨hoff rfl, by simpa using hawait, by simpa using hqual, by simpa using hdelay⟩
  case romCmd =>
    exact ⟨h.teOn (h.teBusy (.inl hs)) (by simp [hs]), by simpa using hawait, by simpa using hqual, h.romCmdOp hs⟩
  case romExec =>
    exact ⟨h.teOn (h.teBusy (.inr hs)) (by simp [hs]), by simpa using hawait, by simpa using hqual, h.romExec hs⟩
  case device =>
    refine ⟨?_, by simpa using hawait, by simpa using hqual⟩
    by_cases hp : s.te.phase = .idle
    · exact .inl ⟨⟨hp, by simpa [hp] using h.armed⟩, hdl (by simp [State.sessionIdle, hs, hp])⟩
    · exact .inr (h.teOn hp (by simp [hs]))
  case unused => simpa [hs, EngineState.used] using h.used

namespace Control

theorem controlAt {s : State} {x : EngineState} (hc : Control s) (hs : s.st = x) : ControlAt x s := hs ▸ hc

/-- What `Control` says of the transfer engine: at rest outside ROM_CMD and ROM_EXEC, or running for the client that the
engine state names. -/
theorem te {s : State} (hc : Control s) :
    (s.teOff ∧ s.st ≠ .romCmd ∧ s.st ≠ .romExec) ∨
    (s.st.runsTe = true ∧ ∃ c, s.teOn c ∧ (c = .dev ↔ s.st = .device)) := by
  unfold Control ControlAt at hc
  cases hst : s.st <;> simp only [hst] at hc
  case romCmd => exact .inr ⟨rfl, .rom, hc.1, by simp⟩
  case romExec => exact .inr ⟨rfl, .rom, hc.1, by simp⟩
  case device => exact hc.1.imp (fun h => ⟨h.1, by simp⟩) fun h => ⟨rfl, .dev, h, by simp⟩
  all_goals exact .inl ⟨hc.1, by simp⟩

theorem used {s : State} (hc : Control s) : s.st.used = true := by
  unfold Control ControlAt at hc
  cases hst : s.st <;> simp [hst, EngineState.used] at hc ⊢

theorem awaiting {s : State} (hc : Control s) : s.awaitingReset = true ↔ s.st = .idle ∨ s.st = .irqHook := by
  unfold Control ControlAt at hc
  cases hst : s.st <;> simp_all

theorem qualified {s : State} (hc : Control s) (hq : s.rstQualified = true) :
    s.st = .resetMeasure ∨ s.st = .intStretch := by
  unfold Control ControlAt at hc
  cases hst : s.st <;> simp_all

theorem delaying {s : State} (hc : Control s) (hd : s.st.delays = true) : 1 ≤ s.dly := by
  unfold Control ControlAt at hc
  cases hst : s.st <;> simp_all [EngineState.delays]

theorem dlStopped {s : State} (hc : Control s)
    (hs : s.st = .idle ∨ s.st = .presenceWait ∨ s.st = .irqHook ∨ s.sessionIdle = true) : s.dl.armed = false := by
  unfold Control ControlAt at hc
  cases hst : s.st <;> simp only [hst, State.sessionIdle] at hs hc
  case device => exact hc.1.elim And.right fun hon => absurd (by simpa using hs) hon.runs
  all_goals simp_all

end Control

theorem Inv.controlAt {s : State} {x : EngineState} (h : Inv s) (hs : s.st = x) : ControlAt x s :=
  h.control.controlAt hs

/-- The two parts together are the invariant; `Inv.steady` and `Inv.control` take it apart. -/
theorem inv_of {s : State} (hs : Steady s) (hc : Control s) : Inv s where
  valid := hs.valid
  used := hc.used
  crc := hs.crc
  awaiting := hc.awaiting
  cls := hs.cls
  armed := by
    obtain ⟨⟨hp, ha⟩, _⟩ | ⟨_, c, hon, _⟩ := hc.te
    · simp [hp, ha]
    · exact hon.armed
  dlRange := ⟨hs.deadline.low, hs.deadline.high⟩
  dlOff := hs.deadline.off
  dlStopped := hc.dlStopped
  measuring hst := by
    obtain ⟨_, _, hdl⟩ := hc.controlAt hst
    exact hdl
  delaying := by
    rintro (hd | ha)
    · exact hc.delaying hd
    · obtain ⟨⟨hp, _⟩, _⟩ | ⟨_, c, hon, _⟩ := hc.te
      · simp [ha] at hp
      · exact hon.acting ha
  teRuns hp := hc.te.elim (fun h => absurd h.1.1 hp) And.left
  teBusy hst := by
    obtain ⟨_, hcmd, hexec⟩ | ⟨_, c, hon, _⟩ := hc.te
    · exact (hst.elim hcmd hexec).elim
    · exact hon.runs
  client hp := by
    obtain ⟨⟨hoff, _⟩, _⟩ | ⟨_, c, hon, hdev⟩ := hc.te
    · exact absurd hoff hp
    · rw [hon.client, hdev]
  tri := ⟨hs.slot.triLe, hs.slot.triZero⟩
  bitIndex := hs.slot.bitIndex
  romCmdOp hst := by
    obtain ⟨_, _, _, hop⟩ := hc.controlAt hst
    exact hop
  romExec hst := by
    obtain ⟨_, _, _, hop⟩ := hc.controlAt hst
    exact hop
  qualified := hc.qualified
  response := hs.response

/-! ### What the rules do to the steady part -/

theorem bounds_of_valid {c : Config} (h : c.valid = true) :
    c.tSlotWait < 2 ^ (c.dlWidth - 1) ∧ c.tResetDeadline < 2 ^ (c.dlWidth - 1) ∧
      c.tSlotLowMax < 2 ^ (c.dlWidth - 1) := by
  obtain ⟨_, _, _, _, _, hlow, _, _, _, hd⟩ := (valid_iff_constraints c).1 h
  simp only [List.forall_mem_cons] at hd
  obtain ⟨hslot, hreset, _⟩ := hd
  omega

theorem deadlineOk_start {c : Config} {k : Nat} (hk : k < 2 ^ (c.dlWidth - 1)) :
    DeadlineOk c ⟨(k : Int) - 1, true⟩ := by
  have hk : (k : Int) < ((2 ^ (c.dlWidth - 1) : Nat) : Int) := by exact_mod_cast hk
  refine ⟨?_, ?_, nofun⟩ <;> simp only [Config.dlMin] <;> omega

theorem deadlineOk_stop (c : Config) : DeadlineOk c ⟨-1, false⟩ := by
  have hpos : (0 : Int) < ((2 ^ (c.dlWidth - 1) : Nat) : Int) := by exact_mod_cast Nat.two_pow_pos _
  refine ⟨?_, ?_, fun _ => rfl⟩ <;> simp only [Config.dlMin] <;> omega

theorem DeadlineOk.count {c : Config} {d : Deadline} (h : DeadlineOk c d) : DeadlineOk c (dlCount c d) := by
  unfold dlCount
  split
  next hc =>
    obtain ⟨ha, hlow⟩ := hc
    obtain ⟨_, hhigh, _⟩ := h
    refine ⟨?_, ?_, fun h' => ?_⟩
    · show c.dlMin ≤ d.count - 1
      omega
    · show d.count - 1 < _
      omega
    · simp [ha] at h'
  next => exact h

@[simp] theorem dlCount_armed (c : Config) (d : Deadline) : (dlCount c d).armed = d.armed := by
  unfold dlCount
  split <;> rfl

theorem slotIndexOk_zero (op : TransferOp) : SlotIndexOk op 0 0 := ⟨by decide, fun _ _ => rfl, fun _ => rfl⟩

namespace Steady

variable {n : State}

theorem beginTick (h : Steady n) : Steady n.beginTick :=
  ⟨h.valid, h.crc, h.cls, h.deadline.count, h.slot, fun _ => ⟨rfl, rfl⟩⟩

theorem respond (h : Steady n) (x : Status) (data : Byte) : Steady (n.respond x data) :=
  ⟨h.valid, h.crc, h.cls, h.deadline, h.slot, nofun⟩

theorem base (h : Steady n) : Steady n.base := by
  unfold State.base
  split
  · exact h.beginTick.respond _ _
  · exact h.beginTick

theorem dlStop (h : Steady n) : Steady n.dlStop := ⟨h.valid, h.crc, h.cls, deadlineOk_stop n.cfg, h.slot, h.response⟩

theorem dlStart (h : Steady n) {k : Nat} (hk : k < 2 ^ (n.cfg.dlWidth - 1)) : Steady (n.dlStart k) :=
  ⟨h.valid, h.crc, h.cls, deadlineOk_start hk, h.slot, h.response⟩

theorem teBegin (h : Steady n) (op : TransferOp) (data : Byte) (c : Client) : Steady (n.teBegin op data c) := by
  refine ⟨h.valid, h.crc, h.cls, deadlineOk_start (bounds_of_valid h.valid).1, ?_, h.response⟩
  simpa [beginTe] using slotIndexOk_zero op

theorem nextSlot (h : Steady n) {cnt : BitVec 3} {tri : BitVec 2} (hi : SlotIndexOk n.te.op cnt tri) :
    Steady (n.nextSlot cnt tri) := by
  refine ⟨h.valid, h.crc, h.cls, deadlineOk_start (bounds_of_valid h.valid).1, ?_, h.response⟩
  simpa using hi

theorem enterMeasure (h : Steady n) {k : Nat} (hk : k ≤ n.cfg.tResetDeadline) (q : Bool) :
    Steady (n.enterMeasure k q) :=
  h.dlStart (lt_of_le_of_lt hk (bounds_of_valid h.valid).2.1)

theorem clearClass (h : Steady n) : Steady { n with intClass := 0 } :=
  ⟨h.valid, h.crc, by simp, h.deadline, h.slot, h.response⟩

theorem abortTransfer (h : Steady n) : Steady n.abortTransfer := by
  unfold State.abortTransfer
  dsimp only
  split
  · exact h
  · split
    · exact h.respond .aborted 0
    · exact h

theorem slotStart (h : Steady n) : Steady (slotStart n) := by
  have hd : DeadlineOk n.cfg (if n.cfg.slotEndBounded then ⟨(n.cfg.tSlotLowMax : Int) - 1, true⟩ else ⟨-1, false⟩) := by
    split
    · exact deadlineOk_start (bounds_of_valid h.valid).2.2
    · exact deadlineOk_stop n.cfg
  obtain ⟨_, e⟩ | ⟨_, _, e⟩ | ⟨_, _, e⟩ := slotStart_cases n <;> rw [e] <;>
    exact ⟨h.valid, h.crc, h.cls, hd, h.slot, h.response⟩

theorem setCondition (h : Steady n) (a : Bool) (c : BitVec 2) : Steady (n.setCondition a c) := by
  refine ⟨h.valid, h.crc, ?_, h.deadline, h.slot, h.response⟩
  rw [State.setCondition_intClass]
  split
  · exact h.cls
  · assumption

end Steady

/-! ### Every rule keeps the invariant -/

theorem inv_endTick {s m : State} (h : Inv m) : Inv (s.endTick m) := by
  unfold State.endTick
  dsimp only
  split
  · exact inv_of (Steady.setCondition h.steady s.inp.condAlarm s.inp.condClass) h.control
  · exact inv_of h.steady h.control

theorem State.teOn_base {s : State} {c : Client} (h : s.teOn c) : s.base.teOn c :=
  ⟨by simpa using h.runs, by simpa using h.client, by simpa using h.armed, by simpa using h.acting⟩

theorem State.teOff_base {s : State} (h : s.teOff) : s.base.teOff := by simpa [State.teOff] using h

/-- A tick whose rule writes nothing keeps the invariant, except that a reset measurement must have a tick left. -/
theorem inv_base {s : State} (h : Inv s) (hm : s.st = .resetMeasure → 0 ≤ s.dlRemaining) : Inv s.base := by
  refine inv_of h.steady.base ?_
  have hc := h.control
  unfold Control ControlAt at hc ⊢
  rw [State.base_st]
  cases hs : s.st <;> simp only [hs] at hc ⊢
  case romCmd => exact ⟨State.teOn_base hc.1, by simpa using hc.2⟩
  case romExec => exact ⟨State.teOn_base hc.1, by simpa using hc.2⟩
  case device =>
    exact ⟨hc.1.imp (fun h => ⟨State.teOff_base h.1, by simpa using h.2⟩) State.teOn_base, by simpa using hc.2⟩
  case resetMeasure =>
    obtain ⟨hoff, hawait, harmed, _⟩ := hc
    have hleft : 0 ≤ s.dl.count := by simpa [State.dlRemaining, harmed] using hm hs
    refine ⟨State.teOff_base hoff, by simpa using hawait, by simpa using harmed, ?_⟩
    rw [State.base_dl]
    unfold dlCount
    split
    · show -1 ≤ s.dl.count - 1
      omega
    · omega
  all_goals exact ⟨State.teOff_base hc.1, by simpa using hc.2⟩

/-! #### Faults and the reset machine -/

theorem abortTransfer_teOff {n : State} (h : n.te.phase = .idle → n.intArmed = false) : n.abortTransfer.teOff := by
  refine ⟨by simp, ?_⟩
  rw [State.abortTransfer_intArmed]
  split
  · exact h ‹_›
  · rfl

theorem inv_enterMeasure {n : State} {k : Nat} {q : Bool} (hn : Steady n) (hoff : n.teOff)
    (hk : k ≤ n.cfg.tResetDeadline) : Inv (n.enterMeasure k q) := by
  refine inv_of (hn.enterMeasure hk q) ⟨hoff, rfl, rfl, ?_⟩
  show -1 ≤ (k : Int) - 1
  omega

theorem inv_raiseFault {n : State} {f : FaultKind} (hn : Steady n) (hw : n.te.phase = .idle → n.intArmed = false)
    (hq : f = .externallyInterrupted → n.rstQualified = false) : Inv (n.raiseFault f) := by
  have hm : Steady (State.abortTransfer { n with faultCode := f.code }) := Steady.abortTransfer hn
  have hoff : State.teOff (State.abortTransfer { n with faultCode := f.code }) := abortTransfer_teOff hw
  unfold State.raiseFault
  cases f
  case externallyInterrupted =>
    exact inv_of hm.dlStop ⟨hoff, rfl, (State.abortTransfer_rstQualified _).trans (hq rfl), rfl⟩
  case slotOverlongPulse => exact inv_enterMeasure hm hoff (by omega)
  all_goals exact inv_of hm.dlStop ⟨hoff, rfl, rfl, rfl⟩

theorem Inv.windowClosed {s : State} (h : Inv s) (hp : s.te.phase = .idle) : s.intArmed = false := by
  simpa [hp] using h.armed

theorem Inv.raiseFault_base {s : State} {f : FaultKind} (h : Inv s)
    (hq : f = .externallyInterrupted → s.rstQualified = false) : Inv (s.base.raiseFault f) :=
  inv_raiseFault h.steady.base (by simpa using h.windowClosed) (by simpa using hq)

/-- A delay in progress that does not end at this tick has a tick left (R135). -/
theorem inv_delayGoesOn {s : State} (h : Inv s) (hs : s.st.delays = true) (hd : s.dly ≠ 1) :
    Inv { s.base with dly := s.dly - 1 } := by
  have hleft : 1 ≤ s.dly - 1 := by
    have := h.delaying (.inl hs)
    omega
  have hb := inv_base h (fun e => by simp [e, EngineState.delays] at hs)
  refine inv_of hb.steady ?_
  have hc := hb.control
  unfold Control ControlAt at hc ⊢
  simp only [State.base_st] at hc ⊢
  cases hst : s.st <;> simp only [hst] at hc ⊢ <;> simp [hst, EngineState.delays] at hs
  case intStretch =>
    obtain ⟨hoff, hawait, _⟩ := hc
    exact ⟨hoff, hawait, hleft⟩
  case presenceWait =>
    obtain ⟨hoff, hawait, hqual, _, hdl⟩ := hc
    exact ⟨hoff, hawait, hqual, hleft, hdl⟩
  all_goals
    obtain ⟨hoff, hawait, hqual, _⟩ := hc
    exact ⟨hoff, hawait, hqual, hleft⟩

/-! #### The slots of an operation -/

/-- `n` has what the engine state says of a running operation as `s` has it: the state, the command, and whose operation
runs. -/
structure SameOperation (s n : State) : Prop where
  cfg : n.cfg = s.cfg
  st : n.st = s.st
  awaiting : n.awaitingReset = s.awaitingReset
  qualified : n.rstQualified = s.rstQualified
  rom : n.rom = s.rom
  op : n.te.op = s.te.op
  client : n.te.client = s.te.client

/-- A tick that goes on with the operation keeps the invariant if it keeps the registers of the slot right. -/
theorem inv_sameOperation {s n : State} (h : Inv s) (hp : s.te.phase ≠ .idle) (hn : Steady n)
    (hsame : SameOperation s n) (hruns : n.te.phase ≠ .idle) (harmed : n.intArmed = true ↔ n.te.phase = .start)
    (hact : n.te.phase = .act → 1 ≤ n.dly) : Inv n := by
  obtain ⟨hcfg, hst, hawait, hqual, hrom, hop, hclient⟩ := hsame
  obtain ⟨⟨hidle, _⟩, _⟩ | ⟨hruns', c, hon, _⟩ := h.control.te
  · exact absurd hidle hp
  have hon' : n.teOn c := ⟨hruns, hclient.trans hon.client, harmed, hact⟩
  refine inv_of hn ?_
  have hc := h.control
  unfold Control ControlAt at hc ⊢
  rw [hst, hawait, hqual, hrom, hcfg, hop]
  cases hs : s.st <;> simp only [hs] at hc ⊢ <;> simp [hs, EngineState.runsTe] at hruns'
  case romCmd => exact ⟨(hon.client.symm.trans hc.1.client) ▸ hon', hc.2⟩
  case romExec => exact ⟨(hon.client.symm.trans hc.1.client) ▸ hon', hc.2⟩
  case device =>
    obtain ⟨⟨⟨hidle, _⟩, _⟩ | hdev, hc⟩ := hc
    · exact absurd hidle hp
    · exact ⟨.inr ((hon.client.symm.trans hdev.client) ▸ hon'), hc⟩

theorem inv_slotStart {s : State} (h : Inv s) (hp : s.te.phase = .start) : Inv (slotStart s.base) := by
  obtain ⟨⟨hsample, _⟩, ⟨hw0, _⟩, _⟩ := (valid_iff_constraints s.cfg).1 h.valid
  have hn := h.steady.base.slotStart
  have hidle : s.te.phase ≠ .idle := by simp [hp]
  obtain ⟨_, e⟩ | ⟨_, _, e⟩ | ⟨_, _, e⟩ := slotStart_cases s.base <;> rw [e] at hn ⊢ <;>
    refine inv_sameOperation h hidle hn (by constructor <;> simp) (by simp) (by simp) ?_
  · simpa using hsample
  · simpa using hw0
  · simp

theorem inv_pulseFromStart {s : State} (h : Inv s) (hp : s.te.phase = .start) (hs : s.st.runsTe = true) :
    Inv (pulseFromStart s.base) := by
  obtain ⟨_, _, ⟨hmin, _⟩, _, hpulse, _⟩ := (valid_iff_constraints s.cfg).1 h.valid
  have hoff : s.base.abortTransfer.teOff := abortTransfer_teOff (by simp [hp])
  have hqual : s.rstQualified = false := by
    by_contra hq
    obtain e | e := h.qualified (by simpa using hq) <;> simp [e, EngineState.runsTe] at hs
  refine inv_of h.steady.base.abortTransfer.dlStop.clearClass ⟨hoff, rfl, ?_, ?_⟩
  · simpa [pulseFromStart] using hqual
  · simpa [pulseFromStart] using hmin.trans hpulse

theorem inv_actGoesOn {s : State} (h : Inv s) (hp : s.te.phase = .act) (hd : s.dly ≠ 1) :
    Inv { s.base with dly := s.dly - 1 } := by
  have := h.delaying (.inr hp)
  have hidle : s.te.phase ≠ .idle := by simp [hp]
  exact inv_sameOperation h hidle h.steady.base (by constructor <;> simp) (by simpa using hidle)
    (by simpa using h.armed) (fun _ => by show 1 ≤ s.dly - 1; omega)

theorem inv_actEnd {s : State} (h : Inv s) (hp : s.te.phase = .act) : Inv (actEnd s s.base) := by
  have hn : Steady (actEnd s s.base) := h.steady.base
  have hwindow : s.intArmed = false := by simpa [hp] using h.armed
  exact inv_sameOperation h (by simp [hp]) hn (by constructor <;> simp [actEnd]) (by simp [actEnd])
    (by simp [actEnd, hwindow]) (by simp [actEnd])

/-- The next slot of a search has its indices in order when the last one had (R177 to R179). -/
theorem completeSearch_more_indices {n m : State} (hs : n.te.op = .searchBit ∨ n.te.op = .searchByte)
    (hi : SlotIndexOk n.te.op n.te.cnt n.te.tri) (h : completeSearch n = .more m) :
    ∃ cnt tri, SlotIndexOk n.te.op cnt tri ∧ m = n.nextSlot cnt tri := by
  have hsearch : ∀ tri : BitVec 2, n.te.op ≠ .searchBit → n.te.op ≠ .searchByte → tri = 0 :=
    fun _ hbit hbyte => (hs.elim hbit hbyte).elim
  unfold completeSearch at h
  split at h
  next htri =>
    cases h
    exact ⟨_, _, ⟨by bv_omega, hsearch _, hi.bitIndex⟩, rfl⟩
  split at h
  · cases h
  split at h
  · cases h
  next hlast =>
    cases h
    have hbyte : n.te.op = .searchByte := hs.resolve_left fun e => hlast (.inl e)
    exact ⟨_, _, ⟨by decide, hsearch _, by simp [hbyte]⟩, rfl⟩

/-- The next slot's indices are in order when the last one's were (R179). -/
theorem completeSlot_more_indices {n m : State} (hi : SlotIndexOk n.te.op n.te.cnt n.te.tri)
    (h : completeSlot n = .more m) :
    ∃ cnt tri sr, SlotIndexOk n.te.op cnt tri ∧ m = State.nextSlot cnt tri { n with te := { n.te with sr := sr } } := by
  unfold completeSlot at h
  split at h
  next => cases h
  next => cases h
  next hop =>
    dsimp only at h
    split at h <;> cases h
    exact ⟨_, _, _, ⟨hi.triLe, hi.triZero, by simp [hop]⟩, rfl⟩
  next hop =>
    split at h <;> cases h
    exact ⟨_, _, n.te.sr, ⟨hi.triLe, hi.triZero, by simp [hop]⟩, rfl⟩
  next hop =>
    obtain ⟨cnt, tri, hi, rfl⟩ := completeSearch_more_indices (.inl hop) hi h
    exact ⟨cnt, tri, n.te.sr, hi, rfl⟩
  next hop =>
    obtain ⟨cnt, tri, hi, rfl⟩ := completeSearch_more_indices (.inr hop) hi h
    exact ⟨cnt, tri, n.te.sr, hi, rfl⟩

theorem inv_slotFollows {s m : State} (h : Inv s) (hp : s.te.phase = .ending) (hm : completeSlot s.base = .more m) :
    Inv m := by
  obtain ⟨cnt, tri, sr, hi, rfl⟩ := completeSlot_more_indices h.steady.base.slot hm
  have hbase : Steady { s.base with te := { s.base.te with sr := sr } } := h.steady.base
  exact inv_sameOperation h (by simp [hp]) (hbase.nextSlot hi) (by constructor <;> simp) (by simp) (by simp) (by simp)

/-! #### ROM commands -/

theorem encode_decodeRomCmd (cfg : Config) (c : Byte) : encode (decodeRomCmd cfg c) = [c] := by
  unfold decodeRomCmd
  split_ifs <;> simp_all [encode]

/-- Everything the dispatch of the command byte `c` can do: select, end unselected, or begin the command's first
transfer (R231, R240). -/
theorem exec_dispatch_cases {n t : State} {c : Byte} (hs : n.st ≠ .romExec)
    (ht : exec (decodeRomCmd n.cfg c) n = .next t) :
    t = (n.receiveCommand c).select ∨ t = (n.receiveCommand c).notSelected ∨
    ∃ op data step, romExecOp (decodeRomCmd n.cfg c) step = some op ∧
      t = State.startRom op data
        { n.receiveCommand c with rom := { (n.receiveCommand c).rom with step := step } } := by
  have hc := encode_decodeRomCmd n.cfg c
  cases hi : decodeRomCmd n.cfg c <;> rw [hi] at ht hc <;>
    simp only [encode, xreqBytes, List.cons.injEq, reduceCtorEq, and_false, and_true] at hc <;> subst hc <;>
    obtain rfl := Host.Outcome.next.inj ht
  case searchRom => exact .inr (.inr ⟨.searchByte, _, n.rom.step, rfl, if_neg hs⟩)
  case readRom => exact .inr (.inr ⟨.sendByte, _, n.rom.step, rfl, if_neg hs⟩)
  case readRom0F => exact .inr (.inr ⟨.sendByte, _, n.rom.step, rfl, if_neg hs⟩)
  case matchRom => exact .inr (.inr ⟨.recvByte, _, n.rom.step, rfl, if_neg hs⟩)
  case skipRom => exact .inl rfl
  case writeRom => exact .inr (.inr ⟨.recvByte, _, .rx, rfl, if_neg hs⟩)
  case condSearch =>
    rw [if_neg hs]
    split
    · exact .inr (.inr ⟨.searchByte, _, n.rom.step, rfl, rfl⟩)
    · exact .inr (.inl rfl)
  case resume =>
    split
    · exact .inl rfl
    · exact .inr (.inl rfl)
  case unrecognized => exact .inr (.inl rfl)

/-- A ROM command acts between two transfers: the last one is over, and neither the next one nor a session has begun. -/
structure BetweenTransfers (n : State) : Prop where
  steady : Steady n
  window : n.intArmed = false
  awaiting : n.awaitingReset = false
  qualified : n.rstQualified = false

theorem Inv.finished_between {s : State} (h : Inv s) (hs : s.st.runsTe = true) (hp : s.te.phase = .ending) :
    BetweenTransfers s.finished := by
  have hb := h.steady.base
  have hawait : s.awaitingReset = false := by
    by_contra ha
    obtain e | e := h.awaiting.1 (by simpa using ha) <;> simp [e, EngineState.runsTe] at hs
  have hqual : s.rstQualified = false := by
    by_contra hq
    obtain e | e := h.qualified (by simpa using hq) <;> simp [e, EngineState.runsTe] at hs
  refine ⟨⟨hb.valid, hb.crc, hb.cls, deadlineOk_stop _, ?_, hb.response⟩, ?_, ?_, ?_⟩
  · exact h.steady.slot
  · simpa [State.finished, hp] using h.armed
  · simpa [State.finished] using hawait
  · simpa [State.finished] using hqual

namespace BetweenTransfers

variable {n : State}

theorem receiveCommand (h : BetweenTransfers n) (c : Byte) : BetweenTransfers (n.receiveCommand c) :=
  ⟨h.steady, h.window, h.awaiting, h.qualified⟩

theorem storeRx (h : BetweenTransfers n) : BetweenTransfers n.storeRx :=
  ⟨h.steady, h.window, h.awaiting, h.qualified⟩

theorem adoptIdentity (h : BetweenTransfers n) (ha : n.writeAccepted = true) : BetweenTransfers n.adoptIdentity := by
  obtain ⟨hfamily, hcrc⟩ : n.rom.rxb[0] = n.id[0] ∧ n.rom.rxb[7] = crc8 (firstSeven n.rom.rxb) := by
    simpa [State.writeAccepted] using ha
  obtain ⟨⟨hvalid, _, hcls, hdl, hslot, hrsp⟩, hwindow, hawait, hqual⟩ := h
  refine ⟨⟨hvalid, ?_, hcls, hdl, hslot, hrsp⟩, hwindow, hawait, hqual⟩
  show n.rom.rxb[7] = crc8 [n.id[0], _, _, _, _, _, _]
  rw [hcrc, ← hfamily]
  rfl

theorem select (h : BetweenTransfers n) : Inv n.select :=
  inv_of h.steady.dlStop ⟨.inl ⟨⟨rfl, h.window⟩, rfl⟩, h.awaiting, h.qualified⟩

theorem notSelected (h : BetweenTransfers n) : Inv n.notSelected :=
  inv_of h.steady.dlStop ⟨⟨rfl, h.window⟩, rfl, h.qualified, rfl⟩

/-- The next transfer of the command in `rom_cmd` begins (R231). -/
theorem teBegin (h : BetweenTransfers n) {op : TransferOp} (data : Byte) (hs : n.st = .romExec)
    (hop : romExecOp (decodeRomCmd n.cfg n.rom.cmd) n.rom.step = some op) : Inv (n.teBegin op data .rom) := by
  have hctl : ControlAt .romExec (n.teBegin op data .rom) :=
    ⟨⟨by simp, by simp [beginTe], by simp, by simp⟩, h.awaiting, h.qualified, by simpa [beginTe] using hop⟩
  exact inv_of (h.steady.teBegin op data .rom) (hctl.control hs)

theorem nextIdByte (h : BetweenTransfers n) {op : TransferOp} (hs : n.st = .romExec)
    (hop : romExecOp (decodeRomCmd n.cfg n.rom.cmd) n.rom.step = some op) : Inv (n.nextIdByte op) :=
  teBegin (n := { n with rom := { n.rom with idx := n.rom.idx + 1 } })
    ⟨h.steady, h.window, h.awaiting, h.qualified⟩ _ hs hop

theorem nextRxByte (h : BetweenTransfers n) (hs : n.st = .romExec)
    (hop : romExecOp (decodeRomCmd n.cfg n.rom.cmd) n.rom.step = some .recvByte) : Inv n.nextRxByte :=
  teBegin (n := { n with rom := { n.rom with idx := n.rom.idx + 1 } })
    ⟨h.steady, h.window, h.awaiting, h.qualified⟩ _ hs hop

theorem startEcho (h : BetweenTransfers n) (hs : n.st = .romExec) (hw : decodeRomCmd n.cfg n.rom.cmd = .writeRom) :
    Inv n.startEcho :=
  teBegin (n := { n with rom := { n.rom with step := .tx, idx := 0 } })
    ⟨h.steady, h.window, h.awaiting, h.qualified⟩ _ hs (by simp [hw, romExecOp])

theorem startRom (h : BetweenTransfers n) {op : TransferOp} (data : Byte)
    (hop : romExecOp (decodeRomCmd n.cfg n.rom.cmd) n.rom.step = some op) : Inv (n.startRom op data) :=
  teBegin (n := { n with st := .romExec }) ⟨h.steady, h.window, h.awaiting, h.qualified⟩ _ rfl hop

theorem searchNext (h : BetweenTransfers n) (hs : n.st = .romExec)
    (hop : romExecOp (decodeRomCmd n.cfg n.rom.cmd) n.rom.step = some .searchByte) : Inv n.searchNext := by
  unfold State.searchNext
  split
  · exact h.notSelected
  · split
    · exact h.notSelected
    · exact h.nextIdByte hs hop

theorem sendNext (h : BetweenTransfers n) {last : State → State} (hlast : Inv (last n)) (hs : n.st = .romExec)
    (hop : romExecOp (decodeRomCmd n.cfg n.rom.cmd) n.rom.step = some .sendByte) : Inv (n.sendNext last) := by
  unfold State.sendNext
  split
  · exact hlast
  · exact h.nextIdByte hs hop

theorem readRomEnd (h : BetweenTransfers n) : Inv n.readRomEnd := by
  unfold State.readRomEnd
  split
  · exact h.select
  · exact h.notSelected

theorem matchNext (h : BetweenTransfers n) (hs : n.st = .romExec)
    (hop : romExecOp (decodeRomCmd n.cfg n.rom.cmd) n.rom.step = some .recvByte) : Inv n.matchNext := by
  unfold State.matchNext
  dsimp only
  split
  · split
    · exact select (n := { n.storeRx with resumeEligible := true, alarmAsserted := false })
        ⟨h.steady, h.window, h.awaiting, h.qualified⟩
    · exact h.storeRx.notSelected
  · exact h.storeRx.nextRxByte hs hop

theorem writeNext (h : BetweenTransfers n) (hs : n.st = .romExec) (hw : decodeRomCmd n.cfg n.rom.cmd = .writeRom) :
    Inv n.writeNext := by
  unfold State.writeNext
  cases hstep : n.rom.step <;> dsimp only
  case rx =>
    split
    · split
      next ha => exact (h.storeRx.adoptIdentity ha).startEcho hs hw
      next => exact h.storeRx.startEcho hs hw
    · exact h.storeRx.nextRxByte hs (by simp [hw, hstep, romExecOp])
  case tx => exact h.sendNext h.notSelected hs (by simp [hw, hstep, romExecOp])

/-- A data transfer of the command in `rom_cmd` completes (R231 to R237). -/
theorem exec_transfer (h : BetweenTransfers n) {t : State} {op : TransferOp} (hs : n.st = .romExec)
    (hop : romExecOp (decodeRomCmd n.cfg n.rom.cmd) n.rom.step = some op)
    (ht : exec (decodeRomCmd n.cfg n.rom.cmd) n = .next t) : Inv t := by
  cases hi : decodeRomCmd n.cfg n.rom.cmd <;> rw [hi] at hop ht <;> simp only [romExecOp, reduceCtorEq] at hop <;>
    obtain rfl := Host.Outcome.next.inj ht <;> rw [if_pos hs]
  case searchRom => exact h.searchNext hs (by simp [hi, romExecOp])
  case condSearch => exact h.searchNext hs (by simp [hi, romExecOp])
  case readRom => exact h.sendNext h.readRomEnd hs (by simp [hi, romExecOp])
  case readRom0F => exact h.sendNext h.readRomEnd hs (by simp [hi, romExecOp])
  case matchRom => exact h.matchNext hs (by simp [hi, romExecOp])
  case writeRom => exact h.writeNext hs hi

/-- The command byte `c` is dispatched (R231). -/
theorem exec_dispatch (h : BetweenTransfers n) {t : State} {c : Byte} (hs : n.st ≠ .romExec)
    (ht : exec (decodeRomCmd n.cfg c) n = .next t) : Inv t := by
  obtain rfl | rfl | ⟨op, data, step, hop, rfl⟩ := exec_dispatch_cases hs ht
  · exact (h.receiveCommand c).select
  · exact (h.receiveCommand c).notSelected
  · exact startRom (n := { n.receiveCommand c with rom := { (n.receiveCommand c).rom with step := step } })
      ⟨h.steady, h.window, h.awaiting, h.qualified⟩ data hop

end BetweenTransfers

theorem inv_commandActs {s m : State} (h : Inv s) (hs : s.st.runsTe = true) (hc : opCompletes s)
    (hm : exec s.finished.commandAt s.finished = .next m) : Inv m := by
  obtain ⟨hp, _⟩ := hc
  have hb := h.finished_between hs hp
  have hst : s.finished.st = s.st := s.base_st
  unfold State.commandAt at hm
  by_cases he : s.st = .romExec
  · rw [hst, if_pos he] at hm
    refine hb.exec_transfer (op := s.te.op) (hst.trans he) ?_ hm
    simpa [State.finished] using h.romExec he
  · rw [hst, if_neg he] at hm
    exact hb.exec_dispatch (by rwa [hst]) hm

/-! #### Sessions -/

theorem inv_deviceAnswered {s : State} (h : Inv s) (hs : s.st.runsTe = true) (hp : s.te.phase = .ending)
    (hd : s.te.client = .dev) (x : Status) (data : Byte) : Inv (s.finished.respond x data) := by
  have hb := h.finished_between hs hp
  have hdev : s.finished.st = .device := s.base_st.trans ((h.client (by simp [hp])).1 hd)
  have hctl : ControlAt .device (s.finished.respond x data) :=
    ⟨.inl ⟨⟨rfl, hb.window⟩, rfl⟩, hb.awaiting, hb.qualified⟩
  exact inv_of (hb.steady.respond x data) (hctl.control hdev)

/-- The state an idle session's rule writes into when no operation begins. -/
theorem inv_sessionWaits {s n : State} (h : Inv s) (hs : s.st = .device) (hp : s.te.phase = .idle)
    (hn : n = s.beginTick ∨ n = s.beginTick.respond .refused 0) : Inv n := by
  obtain ⟨hoff | hon, hc⟩ := h.controlAt hs
  · have harmed : s.beginTick.dl.armed = false := (dlCount_armed s.cfg s.dl).trans hoff.2
    have hctl : ControlAt .device s.beginTick := ⟨.inl ⟨hoff.1, harmed⟩, hc⟩
    obtain rfl | rfl := hn
    · exact inv_of h.steady.beginTick (hctl.control hs)
    · exact inv_of (h.steady.beginTick.respond _ _) (hctl.control hs)
  · exact absurd hp hon.runs

theorem inv_requestBegins {s : State} (h : Inv s) (hs : s.st = .device) (op : TransferOp) (data : Byte) :
    Inv (s.beginTick.teBegin op data .dev) := by
  obtain ⟨_, hc⟩ := h.controlAt hs
  have hctl : ControlAt .device (s.beginTick.teBegin op data .dev) :=
    ⟨.inr ⟨by simp, by simp [beginTe], by simp, by simp⟩, hc⟩
  exact inv_of (h.steady.beginTick.teBegin op data .dev) (hctl.control hs)

/-! #### The tick -/

theorem TickRule.inv {s m : State} (h : Inv s) (hr : TickRule s m) : Inv m := by
  obtain ⟨_, _, ⟨hmin, _⟩, hstretch, hpulse, _, ⟨hpdh, hpdl⟩, _, hwake, _⟩ := (valid_iff_constraints s.cfg).1 h.valid
  have hbase := h.steady.base
  cases hr
  case resetEdge hs _ _ =>
    exact inv_enterMeasure hbase (State.teOff_base (h.controlAt hs).1) (by simp)
  case wakeLow hs _ _ _ =>
    exact inv_enterMeasure hbase (State.teOff_base (h.controlAt hs).1) (by simp)
  case wakeHigh hs _ _ _ =>
    obtain ⟨_, _, hqual, _⟩ := h.controlAt hs
    exact h.raiseFault_base fun _ => hqual
  case idlePulse hs _ _ _ =>
    obtain ⟨hoff, _, hqual, _⟩ := h.controlAt hs
    exact inv_of hbase.clearClass
      ⟨State.teOff_base hoff, rfl, by simpa using hqual, by simpa using hmin.trans hpulse⟩
  case idleWaits hs _ _ _ => exact inv_base h (by simp [hs])
  case resetEnds hs _ _ =>
    obtain ⟨hoff, hawait, _⟩ := h.controlAt hs
    exact inv_of hbase.dlStop ⟨State.teOff_base hoff, by simpa using hawait, rfl, by simpa using hpdh, rfl⟩
  case resetShort => exact h.raiseFault_base nofun
  case resetStretches hs _ _ _ _ =>
    obtain ⟨hoff, hawait, harmed, hcount⟩ := h.controlAt hs
    have hleft : 1 ≤ ((s.base.cfg.tIntStretch : Int) - s.resetWidth).toNat := by
      simp only [State.resetWidth, State.dlRemaining, harmed, if_true, State.base_cfg]
      omega
    exact inv_of hbase.clearClass ⟨State.teOff_base hoff, by simpa using hawait, hleft⟩
  case resetLong => exact h.raiseFault_base nofun
  case resetGoesOn _ hd _ => exact inv_base h fun _ => hd
  case delayGoesOn hs hd => exact inv_delayGoesOn h hs hd
  case stretchEnds hs _ => exact inv_enterMeasure hbase (State.teOff_base (h.controlAt hs).1) le_rfl
  case pulseEnds hs _ => exact inv_enterMeasure hbase (State.teOff_base (h.controlAt hs).1) le_rfl
  case presenceStarts hs _ =>
    obtain ⟨hoff, hawait, hqual, _⟩ := h.controlAt hs
    exact inv_of hbase ⟨State.teOff_base hoff, by simpa using hawait, by simpa using hqual, by simpa using hpdl⟩
  case presenceEnds hs _ =>
    obtain ⟨hoff, hawait, hqual, _⟩ := h.controlAt hs
    have hbegun : Steady s.base.startCommand :=
      Steady.teBegin (n := { s.base with st := .romCmd }) hbase .recvByte 0 .rom
    exact inv_of hbegun ⟨⟨by simp, by simp [beginTe], by simp, by simp⟩, by simpa using hawait, by simpa using hqual,
      by simp [beginTe]⟩
  case hookLeaves hs _ =>
    obtain ⟨hoff, _, hqual, _⟩ := h.controlAt hs
    exact inv_of hbase.dlStop ⟨State.teOff_base hoff, rfl, by simpa using hqual, rfl⟩
  case hookWaits hs _ => exact inv_base h (by simp [hs])
  case requestBegins hs _ _ op data => exact inv_requestBegins h hs op data
  case sessionEnds hs hp _ n hn =>
    have hw := inv_sessionWaits h hs hp hn
    obtain ⟨hst, hidle⟩ : n.st = .device ∧ n.te.phase = .idle := by rcases hn with rfl | rfl <;> exact ⟨hs, hp⟩
    obtain ⟨_, _, hqual⟩ := hw.controlAt hst
    exact inv_of hw.steady.dlStop ⟨⟨hidle, hw.windowClosed hidle⟩, rfl, hqual, rfl⟩
  case sessionWaits hs hp _ hn => exact inv_sessionWaits h hs hp hn
  case transferMissing hs hp => exact absurd hp (h.teBusy hs)
  case slotStarts _ hp _ => exact inv_slotStart h hp
  case slotPulse hs hp _ _ => exact inv_pulseFromStart h hp hs
  case slotTimeout => exact h.raiseFault_base nofun
  case slotWaits hs _ _ _ _ => exact inv_base h fun e => by simp [e, EngineState.runsTe] at hs
  case actGoesOn _ hp hd => exact inv_actGoesOn h hp hd
  case actEnds _ hp _ => exact inv_actEnd h hp
  case slotOverlong => exact h.raiseFault_base nofun
  case endWaits hs _ _ _ => exact inv_base h fun e => by simp [e, EngineState.runsTe] at hs
  case slotFollows _ hp _ _ hm => exact inv_slotFollows h hp hm
  case deviceAnswered hs hc hd x data => exact inv_deviceAnswered h hs hc.1 hd x data
  case commandActs hs hc _ hm => exact inv_commandActs h hs hc hm

/-! ### The statements -/

theorem inv_afterReset {cfg : Config} (family : Byte) (serial : BitVec 48) (env : Environment) (hv : cfg.valid = true) :
    Inv (State.afterReset cfg family serial env) :=
  inv_of
    ⟨hv, rfl, (by decide : (0 : BitVec 2) ≠ 3), deadlineOk_stop cfg, slotIndexOk_zero .recvBit, fun _ => ⟨rfl, rfl⟩⟩
    ⟨⟨rfl, rfl⟩, rfl, rfl, rfl⟩

/-- Settles O55. -/
theorem invAtReset : Obligations.InvAtReset :=
  ⟨inv_afterReset _ _ _ (by decide), fun _ family serial env hv => inv_afterReset family serial env hv⟩

/-- Settles O54: block reset starts with the invariant, and every rule of a tick keeps it. -/
theorem invKept : Obligations.InvKept := by
  intro s t h ht
  cases hr : s.inp.rstN with
  | false =>
    obtain rfl : s.blockReset = t := Host.Outcome.next.inj ((step_blockReset h.valid hr).symm.trans ht)
    exact inv_afterReset _ _ _ h.valid
  | true =>
    obtain ⟨m, hm, rfl⟩ := step_tickRule hr ht
    exact inv_endTick (hm.inv h)

/-! ### `fault_code` is never read -/

/-- `n` with another `fault_code`. -/
def State.withFault (f : FaultCode) (n : State) : State := { n with faultCode := f }

/-- The outcome with another `fault_code` in its state. -/
def mapFault (f : FaultCode) (o : Host.Outcome State Fault Refusal) : Host.Outcome State Fault Refusal :=
  andThen o fun m => .next (m.withFault f)

theorem ite_withFault {p : Prop} [Decidable p] {f : FaultCode} {a b a' b' : State} (ha : a' = a.withFault f)
    (hb : b' = b.withFault f) : (if p then a' else b') = (if p then a else b).withFault f := by
  rw [ha, hb, apply_ite (State.withFault f)]

theorem next_withFault {f : FaultCode} {a b : State} (h : a = b.withFault f) :
    (Host.Outcome.next a : Host.Outcome State Fault Refusal) = mapFault f (.next b) := congrArg Host.Outcome.next h

section

variable (f : FaultCode) (n : State)

theorem request_withFault (op : Option TransferOp) (data : Byte) :
    (n.withFault f).request op data = (n.request op data).withFault f := by
  refine ite_withFault rfl (ite_withFault rfl (ite_withFault rfl ?_))
  cases op <;> rfl

theorem searchNext_withFault : (n.withFault f).searchNext = n.searchNext.withFault f :=
  ite_withFault rfl (ite_withFault rfl rfl)

theorem sendNext_withFault {last : State → State} (h : last (n.withFault f) = (last n).withFault f) :
    (n.withFault f).sendNext last = (n.sendNext last).withFault f := ite_withFault h rfl

theorem readRomEnd_withFault : (n.withFault f).readRomEnd = n.readRomEnd.withFault f := ite_withFault rfl rfl

theorem matchNext_withFault : (n.withFault f).matchNext = n.matchNext.withFault f :=
  ite_withFault (ite_withFault rfl rfl) rfl

theorem writeNext_withFault : (n.withFault f).writeNext = n.writeNext.withFault f := by
  unfold State.writeNext
  rw [show (n.withFault f).rom = n.rom from rfl]
  cases n.rom.step
  · exact ite_withFault (ite_withFault rfl rfl) rfl
  · exact sendNext_withFault f n rfl

/-- No meaning reads or writes `fault_code`. -/
theorem exec_withFault (i : Instr) : exec i (n.withFault f) = mapFault f (exec i n) := by
  cases i <;> refine next_withFault ?_
  case searchRom => exact ite_withFault (searchNext_withFault f n) rfl
  case readRom => exact ite_withFault (sendNext_withFault f n (readRomEnd_withFault f n)) rfl
  case readRom0F => exact ite_withFault (sendNext_withFault f n (readRomEnd_withFault f n)) rfl
  case matchRom => exact ite_withFault (matchNext_withFault f n) rfl
  case skipRom => rfl
  case writeRom => exact ite_withFault (writeNext_withFault f n) rfl
  case condSearch => exact ite_withFault (searchNext_withFault f n) (ite_withFault rfl rfl)
  case resume => exact ite_withFault rfl rfl
  case unrecognized => rfl
  all_goals exact request_withFault f n _ _

end

theorem exec_faultCode {i : Instr} {n t : State} (h : exec i n = .next t) : t.faultCode = n.faultCode := by
  have ht := exec_withFault n.faultCode n i
  rw [show n.withFault n.faultCode = n from rfl, h] at ht
  have hsame : t = t.withFault n.faultCode := Host.Outcome.next.inj ht
  calc t.faultCode = (t.withFault n.faultCode).faultCode := congrArg State.faultCode hsame
    _ = n.faultCode := rfl

/-- What a tick makes of a state that differs in `fault_code` alone: the same difference, or none once a fault is
raised. -/
def FaultTwin (f : FaultCode) (a b : State) : Prop := b = a.withFault f ∨ b = a

/-- The two ticks answer, and the states they answer are twins. -/
def OutcomeTwin (f : FaultCode) (a b : Host.Outcome State Fault Refusal) : Prop :=
  ∀ m, a = .next m → ∃ k, b = .next k ∧ FaultTwin f m k

section

variable {f : FaultCode}

theorem FaultTwin.ite {p : Prop} [Decidable p] {a b a' b' : State} (ha : FaultTwin f a a') (hb : FaultTwin f b b') :
    FaultTwin f (if p then a else b) (if p then a' else b') := by
  split
  · exact ha
  · exact hb

theorem FaultTwin.outcome {a b : State} (h : FaultTwin f a b) : OutcomeTwin f (.next a) (.next b) :=
  fun _ hm => ⟨b, rfl, Host.Outcome.next.inj hm ▸ h⟩

theorem OutcomeTwin.of_map {a b : Host.Outcome State Fault Refusal} (h : b = mapFault f a) : OutcomeTwin f a b := by
  rintro m rfl
  exact ⟨m.withFault f, h, .inl rfl⟩

theorem OutcomeTwin.ite {p : Prop} [Decidable p] {a b a' b' : Host.Outcome State Fault Refusal}
    (ha : OutcomeTwin f a a') (hb : OutcomeTwin f b b') :
    OutcomeTwin f (if p then a else b) (if p then a' else b') := by
  split
  · exact ha
  · exact hb

/-- A fault writes its own code over the one there was (R285). -/
theorem raiseFault_twin (k : FaultKind) (n : State) : FaultTwin f (n.raiseFault k) ((n.withFault f).raiseFault k) :=
  .inr rfl

theorem abortTransfer_withFault (n : State) : (n.withFault f).abortTransfer = n.abortTransfer.withFault f :=
  ite_withFault rfl (ite_withFault rfl rfl)

theorem slotStart_withFault (n : State) : slotStart (n.withFault f) = (slotStart n).withFault f := by
  cases hd : n.te.dir <;> cases hc : n.te.cur <;> cases hb : n.cfg.slotEndBounded <;>
    simp [slotStart, State.withFault, State.dlStart, State.dlStop, hd, hc, hb]

theorem startTick_twin (s n : State) : FaultTwin f (startTick s n) (startTick (s.withFault f) (n.withFault f)) := by
  refine .ite (.inl (slotStart_withFault n)) (.ite (.inl ?_) (.ite (raiseFault_twin _ n) (.inl rfl)))
  exact congrArg (fun m => State.enterIntPulse (State.dlStop m)) (abortTransfer_withFault n)

/-- A completed operation's result is delivered alike. -/
theorem deliver_done_withFault (x : Status) (data : Byte) (n : State) :
    deliver (.done x data (n.withFault f)) = mapFault f (deliver (.done x data n)) := by
  unfold deliver
  dsimp only
  rw [show (n.withFault f).te = n.te from rfl]
  cases n.te.client
  · exact exec_withFault f n n.commandAt
  · rfl

theorem ite_mapFault {p : Prop} [Decidable p] {a b a' b' : SlotResult} (ha : deliver a' = mapFault f (deliver a))
    (hb : deliver b' = mapFault f (deliver b)) :
    deliver (if p then a' else b') = mapFault f (deliver (if p then a else b)) := by
  split
  · exact ha
  · exact hb

theorem deliver_completeSearch_withFault (n : State) :
    deliver (completeSearch (n.withFault f)) = mapFault f (deliver (completeSearch n)) :=
  ite_mapFault rfl (ite_mapFault (deliver_done_withFault _ _ n.teDone)
    (ite_mapFault (deliver_done_withFault _ _ n.teDone) rfl))

theorem deliver_completeSlot_withFault (n : State) :
    deliver (completeSlot (n.withFault f)) = mapFault f (deliver (completeSlot n)) := by
  unfold completeSlot
  rw [show (n.withFault f).te = n.te from rfl]
  cases n.te.op
  case recvBit => exact deliver_done_withFault _ _ n.teDone
  case sendBit => exact deliver_done_withFault _ _ n.teDone
  case recvByte =>
    exact ite_mapFault (deliver_done_withFault _ _ (State.teDone { n with te := { n.te with sr := _ } })) rfl
  case sendByte => exact ite_mapFault (deliver_done_withFault _ _ n.teDone) rfl
  all_goals exact deliver_completeSearch_withFault n

theorem teTick_twin (s n : State) : OutcomeTwin f (teTick s n) (teTick (s.withFault f) (n.withFault f)) := by
  unfold teTick
  rw [show (s.withFault f).te = s.te from rfl]
  cases s.te.phase
  case idle => exact .of_map rfl
  case start => exact (startTick_twin s n).outcome
  case act => exact (FaultTwin.ite (.inl rfl) (.inl rfl)).outcome
  case ending =>
    exact .ite (.of_map (deliver_completeSlot_withFault n)) (.ite (raiseFault_twin _ n).outcome (.of_map rfl))

theorem idleTick_twin (s n : State) : FaultTwin f (idleTick s n) (idleTick (s.withFault f) (n.withFault f)) := by
  have hquiet : FaultTwin f (idleQuiet s n) (idleQuiet (s.withFault f) (n.withFault f)) := .ite (.inl rfl) (.inl rfl)
  exact .ite (.ite (.ite (raiseFault_twin _ n) (.inl rfl)) hquiet) (.ite (.inl rfl) hquiet)

theorem engineTick_twin (s n : State) :
    OutcomeTwin f (engineTick s n) (engineTick (s.withFault f) (n.withFault f)) := by
  unfold engineTick
  rw [show (s.withFault f).st = s.st from rfl]
  cases s.st
  case idle => exact (idleTick_twin s n).outcome
  case resetMeasure =>
    exact (FaultTwin.ite (.ite (.inl rfl) (raiseFault_twin _ n))
      (.ite (.inl rfl) (.ite (raiseFault_twin _ n) (.inl rfl)))).outcome
  case romCmd => exact teTick_twin s n
  case romExec => exact teTick_twin s n
  case device => exact .ite (FaultTwin.ite (.inl rfl) (.inl rfl)).outcome (teTick_twin s n)
  case unused => exact fun _ hm => (nomatch hm)
  all_goals exact (FaultTwin.ite (.inl rfl) (.inl rfl)).outcome

theorem requestTick_withFault (s n : State) :
    requestTick (s.withFault f) (n.withFault f) = mapFault f (requestTick s n) := by
  unfold requestTick
  rw [show (s.withFault f).requested = s.requested from rfl]
  cases s.requested
  · rfl
  · exact exec_withFault f n _

theorem endTick_twin (s : State) {m k : State} (h : FaultTwin f m k) :
    FaultTwin f (s.endTick m) ((s.withFault f).endTick k) := by
  obtain rfl | rfl := h
  · refine .inl ?_
    unfold State.endTick
    rw [show (s.withFault f).inp = s.inp from rfl]
    dsimp only
    split <;> rfl
  · exact .inr rfl

theorem step_twin {s t : State} (h : step s = .next t) : ∃ u, step (s.withFault f) = .next u ∧ FaultTwin f t u := by
  obtain ⟨hv, ⟨hr, rfl⟩ | ⟨hr, n, m, hn, hm, rfl⟩⟩ := step_cases h
  · exact ⟨_, step_blockReset hv hr, .inr rfl⟩
  · obtain ⟨k, hk, htwin⟩ := engineTick_twin s n m hm
    refine ⟨(s.withFault f).endTick k, ?_, endTick_twin s htwin⟩
    have hreq : requestTick (s.withFault f) (s.withFault f).beginTick = .next (n.withFault f) :=
      (requestTick_withFault s s.beginTick).trans (congrArg (mapFault f) hn)
    rw [step_run (s := s.withFault f) hv hr, runTick, hreq, andThen, hk, andThen]

end

/-- Settles O48: a twin state steps to a twin state. -/
theorem faultCodeNeverRead : Obligations.FaultCodeNeverRead := by
  intro s t f h
  obtain ⟨u, hu, rfl | rfl⟩ := step_twin (f := f) h
  · exact ⟨f, hu, .inl rfl, rfl⟩
  · exact ⟨u.faultCode, hu, .inr rfl, rfl⟩

/-! ### `fault_code` is written by raised faults -/

theorem raised_idle {s : State} (hs : s.st = .idle) : s.raised =
    if s.cfg.hasSleep = true ∧ s.inp.wake = true ∧ s.lineS = true then some .externallyInterrupted else none := by
  simp [State.raised, hs, EngineState.runsTe]

theorem raised_resetMeasure {s : State} (hs : s.st = .resetMeasure) : s.raised =
    if s.lineS = true ∧ s.rstQualified = false ∧ s.resetWidth < (s.cfg.tResetMin : Int) then some .resetTooShort
    else if s.lineS = false ∧ s.dlRemaining < 0 ∧
      ¬(s.class1Pending = true ∧ s.rstQualified = false ∧ (s.cfg.tResetMin : Int) ≤ s.resetWidth) then
      some .shortPulseTimeout
    else none := by
  simp [State.raised, State.resetWidth, hs, EngineState.runsTe]

theorem raised_te {s : State} (hs : s.st.runsTe = true) : s.raised =
    if s.te.phase = .start ∧ s.edgeFall = false ∧ s.class2Pending = false ∧ s.dlRemaining < 0 then some .timeSlotTimeout
    else if s.te.phase = .ending ∧ s.lineS = false ∧ s.cfg.slotEndBounded = true ∧ s.dlRemaining < 0 then
      some .slotOverlongPulse
    else none := by
  have hidle : s.st ≠ .idle := fun e => by simp [e, EngineState.runsTe] at hs
  have hmeasure : s.st ≠ .resetMeasure := fun e => by simp [e, EngineState.runsTe] at hs
  simp [State.raised, hidle, hmeasure, hs]

/-- No fault is raised while a delay runs or in IRQ_HOOK (R280). -/
theorem raised_quiet {s : State} (hs : s.st.delays = true ∨ s.st = .irqHook) : s.raised = none := by
  have hx : s.st ≠ .idle ∧ s.st ≠ .resetMeasure ∧ s.st.runsTe = false := by
    cases h : s.st <;> simp [h, EngineState.delays, EngineState.runsTe] at hs ⊢
  simp [State.raised, hx]

theorem raised_ne_presenceCheckFailed (s : State) : s.raised ≠ some .presenceCheckFailed := by
  unfold State.raised
  split_ifs <;> simp

theorem slotStart_faultCode (n : State) : (slotStart n).faultCode = n.faultCode := by
  obtain ⟨_, e⟩ | ⟨_, _, e⟩ | ⟨_, _, e⟩ := slotStart_cases n <;> rw [e]

theorem completeSlot_more_faultCode {n m : State} (h : completeSlot n = .more m) : m.faultCode = n.faultCode := by
  obtain ⟨cnt, tri, sr, e⟩ | ⟨x, data, sr, e⟩ := completeSlot_cases n <;> rw [e] at h <;> cases h
  rfl

/-- What `fault_code` holds after the rule of this tick (R285, R289). -/
theorem TickRule.faultCode {s m : State} (h : TickRule s m) :
    (∃ f, s.raised = some f ∧ m.faultCode = f.code) ∨ s.raised = none ∧ m.faultCode = s.faultCode := by
  have hbase : s.base.faultCode = s.faultCode := s.base_faultCode
  cases h
  case resetEdge hs hb _ => exact .inr ⟨by simp [raised_idle hs, hb], hbase⟩
  case wakeLow hs _ _ hl => exact .inr ⟨by simp [raised_idle hs, hl], hbase⟩
  case wakeHigh hs hb hw hl => exact .inl ⟨_, by simp [raised_idle hs, hb, hw, hl], State.raiseFault_faultCode _ _⟩
  case idlePulse hs _ _ hw => exact .inr ⟨by simp +contextual [raised_idle hs, hw], hbase⟩
  case idleWaits hs _ _ hw => exact .inr ⟨by simp +contextual [raised_idle hs, hw], hbase⟩
  case resetEnds hs hl hw =>
    refine .inr ⟨?_, hbase⟩
    rw [raised_resetMeasure hs, if_neg, if_neg (by simp [hl])]
    rintro ⟨_, hq, hshort⟩
    exact hw.elim (by simp [hq]) hshort.not_ge
  case resetShort hs hl hq hw =>
    exact .inl ⟨_, by simp [raised_resetMeasure hs, hl, hq, hw], State.raiseFault_faultCode _ _⟩
  case resetStretches hs hl hc hq hw => exact .inr ⟨by simp [raised_resetMeasure hs, hl, hc, hq, hw], hbase⟩
  case resetLong hs hl hd hc =>
    refine .inl ⟨_, ?_, State.raiseFault_faultCode _ _⟩
    rw [raised_resetMeasure hs, if_neg (by simp [hl]), if_pos ⟨hl, hd, hc⟩]
  case resetGoesOn hs hl hd _ =>
    refine .inr ⟨?_, hbase⟩
    rw [raised_resetMeasure hs, if_neg (by simp [hl]), if_neg fun h => h.2.1.not_ge hd]
  case delayGoesOn hs _ => exact .inr ⟨raised_quiet (.inl hs), hbase⟩
  case stretchEnds hs _ => exact .inr ⟨raised_quiet (.inl (by simp [hs, EngineState.delays])), hbase⟩
  case pulseEnds hs _ => exact .inr ⟨raised_quiet (.inl (by simp [hs, EngineState.delays])), hbase⟩
  case presenceStarts hs _ => exact .inr ⟨raised_quiet (.inl (by simp [hs, EngineState.delays])), hbase⟩
  case presenceEnds hs _ => exact .inr ⟨raised_quiet (.inl (by simp [hs, EngineState.delays])), hbase⟩
  case hookLeaves hs _ => exact .inr ⟨raised_quiet (.inr hs), hbase⟩
  case hookWaits hs _ => exact .inr ⟨raised_quiet (.inr hs), hbase⟩
  case requestBegins hs hp _ op data => exact .inr ⟨by simp [raised_te, hs, hp, EngineState.runsTe], rfl⟩
  case sessionEnds hs hp _ n hn =>
    exact .inr ⟨by simp [raised_te, hs, hp, EngineState.runsTe], by rcases hn with rfl | rfl <;> rfl⟩
  case sessionWaits hs hp _ hn =>
    exact .inr ⟨by simp [raised_te, hs, hp, EngineState.runsTe], by rcases hn with rfl | rfl <;> rfl⟩
  case transferMissing hs hp =>
    have hr : s.st.runsTe = true := by rcases hs with hs | hs <;> simp [hs, EngineState.runsTe]
    exact .inr ⟨by simp [raised_te hr, hp], hbase⟩
  case slotStarts hs hp he => exact .inr ⟨by simp [raised_te hs, hp, he], (slotStart_faultCode _).trans hbase⟩
  case slotPulse hs hp _ hc =>
    exact .inr ⟨by simp [raised_te hs, hp, hc], by simp [pulseFromStart]⟩
  case slotTimeout hs hp he hc hd =>
    exact .inl ⟨_, by simp [raised_te hs, hp, he, hc, hd], State.raiseFault_faultCode _ _⟩
  case slotWaits hs hp _ _ hd => exact .inr ⟨by simp [raised_te hs, hp, hd.not_gt], hbase⟩
  case actGoesOn hs hp _ => exact .inr ⟨by simp [raised_te hs, hp], hbase⟩
  case actEnds hs hp _ => exact .inr ⟨by simp [raised_te hs, hp], hbase⟩
  case slotOverlong hs hp hl hb hd =>
    exact .inl ⟨_, by simp [raised_te hs, hp, hl, hb, hd], State.raiseFault_faultCode _ _⟩
  case endWaits hs hp _ hb =>
    refine .inr ⟨?_, hbase⟩
    rw [raised_te hs, if_neg (by simp [hp]), if_neg fun h => hb h.2.2]
  case slotFollows hs hp hl _ hm =>
    exact .inr ⟨by simp [raised_te hs, hp, hl], (completeSlot_more_faultCode hm).trans hbase⟩
  case deviceAnswered hs hc _ x data => exact .inr ⟨by simp [raised_te hs, hc.1, hc.2.1], hbase⟩
  case commandActs hs hc _ hm => exact .inr ⟨by simp [raised_te hs, hc.1, hc.2.1], (exec_faultCode hm).trans hbase⟩

/-- Settles O47, from what `fault_code` holds after each rule of a tick. -/
theorem faultCodeWrites : Obligations.FaultCodeWrites := by
  intro s t hr h
  refine ⟨?_, raised_ne_presenceCheckFailed s⟩
  obtain ⟨m, hm, rfl⟩ := step_tickRule hr h
  rw [State.endTick_faultCode]
  obtain ⟨f, hf, hcode⟩ | ⟨hnone, hcode⟩ := hm.faultCode
  · rw [hf, hcode]
  · rw [hnone, hcode]

/-! ### The registers the ROM commands own -/

/-- The tick at which a ROM command acts is `exec` of it on the completed transfer's state (R231). -/
theorem step_command {s t : State} (hr : s.inp.rstN = true) (hs : s.st.runsTe = true) (hc : opCompletes s)
    (hd : s.te.client = .rom) (h : step s = .next t) :
    ∃ m, exec s.finished.commandAt s.finished = .next m ∧ t = s.endTick m := by
  obtain ⟨hp, hl, _⟩ := id hc
  obtain ⟨x, data, e⟩ := completeSlot_done hc
  have hte : teTick s s.base = exec s.finished.commandAt s.finished := by
    simp [teTick, endingTick, hp, hl, e, deliver, State.finished, hd]
  rw [step_te (step_cases h).1 hr hs (by simp [hp]), hte] at h
  obtain ⟨m, hm, h⟩ := andThen_next h
  exact ⟨m, hm, (Host.Outcome.next.inj h).symm⟩

/-- `t` has the identity and the persist request of `n`. -/
structure SameIdentity (n t : State) : Prop where
  id : t.id = n.id
  nv : t.nv = n.nv

/-- `resume_eligible`, the identity and the persist request as every tick leaves them at which no ROM command acts. -/
structure SameRomOwned (s m : State) : Prop extends SameIdentity s.base m where
  resume : m.resumeEligible = s.resumeEligible

theorem TickRule.sameRomOwned {s m : State} (h : TickRule s m)
    (hn : ¬(s.st.runsTe = true ∧ opCompletes s ∧ s.te.client = .rom)) : SameRomOwned s m := by
  have hbase : s.base.resumeEligible = s.resumeEligible := s.base_resumeEligible
  have hbegin : SameRomOwned s s.beginTick := ⟨⟨s.base_id.symm, s.base_nv.symm⟩, rfl⟩
  have hfault : ∀ f, SameRomOwned s (s.base.raiseFault f) := fun f => ⟨⟨by simp, by simp⟩, by simp⟩
  cases h
  case commandActs hs hc hd _ => exact absurd ⟨hs, hc, hd⟩ hn
  case wakeHigh => exact hfault _
  case resetShort => exact hfault _
  case resetLong => exact hfault _
  case slotTimeout => exact hfault _
  case slotOverlong => exact hfault _
  case requestBegins => exact ⟨⟨hbegin.id, hbegin.nv⟩, rfl⟩
  case sessionEnds hn => rcases hn with rfl | rfl <;> exact ⟨⟨hbegin.id, hbegin.nv⟩, rfl⟩
  case sessionWaits hn => rcases hn with rfl | rfl <;> exact ⟨⟨hbegin.id, hbegin.nv⟩, rfl⟩
  case slotStarts =>
    obtain ⟨_, e⟩ | ⟨_, _, e⟩ | ⟨_, _, e⟩ := slotStart_cases s.base <;> rw [e] <;> exact ⟨⟨rfl, rfl⟩, hbase⟩
  case slotPulse => exact ⟨⟨by simp [pulseFromStart], by simp [pulseFromStart]⟩, by simp [pulseFromStart]⟩
  case slotFollows hm =>
    obtain ⟨cnt, tri, sr, e⟩ | ⟨x, data, sr, e⟩ := completeSlot_cases s.base <;> rw [e] at hm <;> cases hm
    exact ⟨⟨rfl, rfl⟩, hbase⟩
  all_goals exact ⟨⟨rfl, rfl⟩, hbase⟩

theorem nvNext_valid (tick : Nat) (nv : PersistRequest) : (nvNext tick nv).valid = false := by
  unfold nvNext
  split
  · rfl
  · exact Bool.eq_false_of_not_eq_true ‹_›

/-! #### The identity and the persist request -/

theorem SameIdentity.ite {p : Prop} [Decidable p] {n a b : State} (ha : SameIdentity n a) (hb : SameIdentity n b) :
    SameIdentity n (if p then a else b) := by
  split
  · exact ha
  · exact hb

theorem request_sameIdentity (op : Option TransferOp) (data : Byte) (n : State) :
    SameIdentity n (n.request op data) := by
  obtain ⟨_, e⟩ | ⟨_, _, e⟩ | ⟨_, _, _, e⟩ | ⟨_, _, _, _, _, e⟩ := request_cases op data n <;>
    rw [e] <;> exact ⟨rfl, rfl⟩

/-- No meaning writes the identity or the persist request but WRITE ROM at one of its data transfers (R236). -/
theorem exec_sameIdentity {i : Instr} {n t : State} (hi : i = .writeRom → n.st ≠ .romExec) (h : exec i n = .next t) :
    SameIdentity n t := by
  have hsearch : SameIdentity n n.searchNext := .ite ⟨rfl, rfl⟩ (.ite ⟨rfl, rfl⟩ ⟨rfl, rfl⟩)
  have hread : SameIdentity n (n.sendNext State.readRomEnd) := .ite (.ite ⟨rfl, rfl⟩ ⟨rfl, rfl⟩) ⟨rfl, rfl⟩
  cases i <;> obtain rfl := Host.Outcome.next.inj h
  case searchRom => exact .ite hsearch ⟨rfl, rfl⟩
  case readRom => exact .ite hread ⟨rfl, rfl⟩
  case readRom0F => exact .ite hread ⟨rfl, rfl⟩
  case matchRom => exact .ite (.ite (.ite ⟨rfl, rfl⟩ ⟨rfl, rfl⟩) ⟨rfl, rfl⟩) ⟨rfl, rfl⟩
  case skipRom => exact ⟨rfl, rfl⟩
  case writeRom =>
    rw [if_neg (hi rfl)]
    exact ⟨rfl, rfl⟩
  case condSearch => exact .ite hsearch (.ite ⟨rfl, rfl⟩ ⟨rfl, rfl⟩)
  case resume => exact .ite ⟨rfl, rfl⟩ ⟨rfl, rfl⟩
  case unrecognized => exact ⟨rfl, rfl⟩
  all_goals exact request_sameIdentity _ _ n

/-- WRITE ROM accepts at the completion of its eighth received byte (R236). -/
theorem writeNext_cases (n : State) :
    (n.rom.step = .rx ∧ n.rom.idx = 7 ∧ n.storeRx.writeAccepted = true ∧
      n.writeNext = n.storeRx.adoptIdentity.startEcho) ∨
    (¬(n.rom.step = .rx ∧ n.rom.idx = 7 ∧ n.storeRx.writeAccepted = true) ∧ SameIdentity n n.writeNext) := by
  unfold State.writeNext
  cases hstep : n.rom.step <;> dsimp only
  case tx => exact .inr ⟨by simp, .ite ⟨rfl, rfl⟩ ⟨rfl, rfl⟩⟩
  case rx =>
    by_cases hidx : n.rom.idx = 7
    · cases hacc : n.storeRx.writeAccepted
      · exact .inr ⟨by simp, by rw [if_pos hidx]; exact ⟨rfl, rfl⟩⟩
      · exact .inl ⟨rfl, hidx, rfl, by rw [if_pos hidx, if_pos rfl]⟩
    · exact .inr ⟨fun h => hidx h.2.1, by rw [if_neg hidx]; exact ⟨rfl, rfl⟩⟩

theorem adoptIdentity_id {n : State} (h : n.rom.rxb[0] = n.id[0]) : n.adoptIdentity.id = n.rom.rxb := by
  show #v[n.id[0], _, _, _, _, _, _, _] = n.rom.rxb
  rw [← h]
  refine Vector.ext fun k hk => ?_
  interval_cases k <;> rfl

theorem finished_id (s : State) : s.finished.id = s.id := s.base_id

theorem finished_storeRx_rxb {s : State} (hidx : s.rom.idx = 7) : s.finished.storeRx.rom.rxb = s.receivedBytes := by
  simp [State.finished, State.receivedBytes, hidx]

theorem finished_commandAt {s : State} (hs : s.st = .romExec) :
    s.finished.commandAt = decodeRomCmd s.cfg s.rom.cmd := by
  simp [State.commandAt, State.finished, hs]

/-- `writeRomAccepts` is WRITE ROM's own check at the completed transfer (R236). -/
theorem writeRomAccepts_iff {s : State} (hs : s.st = .romExec) (hd : s.te.client = .rom) (hc : opCompletes s)
    (hi : decodeRomCmd s.cfg s.rom.cmd = .writeRom) :
    writeRomAccepts s ↔
      s.finished.rom.step = .rx ∧ s.finished.rom.idx = 7 ∧ s.finished.storeRx.writeAccepted = true := by
  have hrom : s.finished.rom = s.rom := s.base_rom
  rw [hrom]
  refine ⟨fun ⟨_, hstep, hidx, hcheck⟩ => ⟨hstep, hidx, ?_⟩,
    fun ⟨hstep, hidx, hcheck⟩ => ⟨⟨hs, hd, hc, hi⟩, hstep, hidx, ?_⟩⟩
  all_goals
    unfold State.writeAccepted at *
    rw [finished_storeRx_rxb hidx, State.storeRx_id, finished_id] at *
    simpa using hcheck

/-- The tick at which WRITE ROM accepts adopts the received bytes and requests their persistence (R85, R90, R236). -/
theorem identity_of_writeRomAccepts {s t : State} (hr : s.inp.rstN = true) (h : step s = .next t)
    (ha : writeRomAccepts s) :
    t.id = s.receivedBytes ∧ t.nv = ⟨true, packSerial s.receivedBytes⟩ ∧ t.te.phase = .start := by
  obtain ⟨⟨hs, hd, hc, hi⟩, _, hidx, hfamily, _⟩ := id ha
  obtain ⟨m, hm, rfl⟩ := step_command hr (by simp [hs, EngineState.runsTe]) hc hd h
  have hst : s.finished.st = .romExec := s.base_st.trans hs
  have hrxb := finished_storeRx_rxb hidx
  obtain ⟨_, _, _, e⟩ | ⟨hn, _⟩ := writeNext_cases s.finished
  · rw [finished_commandAt hs, hi] at hm
    obtain rfl : s.finished.storeRx.adoptIdentity.startEcho = m := by
      simpa [exec, execWriteRom, hst, e] using hm
    have hid := adoptIdentity_id (n := s.finished.storeRx)
      (by rw [hrxb, State.storeRx_id, finished_id]; exact hfamily)
    refine ⟨?_, ?_, by simp⟩
    · rw [State.endTick_id, State.startEcho_id, hid, hrxb]
    · rw [State.endTick_nv, State.startEcho_nv, State.adoptIdentity_nv, hrxb]
  · exact absurd ((writeRomAccepts_iff hs hd hc hi).1 ha) hn

/-- Every other tick keeps the identity and makes no request. -/
theorem identity_of_not_writeRomAccepts {s t : State} (hr : s.inp.rstN = true) (h : step s = .next t)
    (ha : ¬writeRomAccepts s) : t.id = s.id ∧ t.nv.valid = false := by
  have hsuffices : ∀ m, SameIdentity s.base m → t = s.endTick m → t.id = s.id ∧ t.nv.valid = false := by
    rintro m ⟨hid, hnv⟩ rfl
    refine ⟨by simpa using hid, ?_⟩
    rw [State.endTick_nv, hnv, State.base_nv]
    exact nvNext_valid _ _
  by_cases hcmd : s.st.runsTe = true ∧ opCompletes s ∧ s.te.client = .rom
  · obtain ⟨m, hm, ht⟩ := step_command hr hcmd.1 hcmd.2.1 hcmd.2.2 h
    have hsame : SameIdentity s.finished m := by
      by_cases hw : s.finished.commandAt = .writeRom ∧ s.st = .romExec
      · obtain ⟨hi, hs⟩ := hw
        rw [finished_commandAt hs] at hi
        rw [finished_commandAt hs, hi] at hm
        obtain ⟨hstep, hidx, hacc, _⟩ | ⟨_, hsame⟩ := writeNext_cases s.finished
        · exact absurd ((writeRomAccepts_iff hs hcmd.2.2 hcmd.2.1 hi).2 ⟨hstep, hidx, hacc⟩) ha
        · have hst : s.finished.st = .romExec := s.base_st.trans hs
          obtain rfl : s.finished.writeNext = m := by simpa [exec, execWriteRom, hst] using hm
          exact hsame
      · refine exec_sameIdentity (fun hi hs => hw ⟨hi, ?_⟩) hm
        simpa [State.finished] using hs
    exact hsuffices m ⟨hsame.id, hsame.nv⟩ ht
  · obtain ⟨m, hm, ht⟩ := step_tickRule hr h
    exact hsuffices m (hm.sameRomOwned hcmd).toSameIdentity ht

/-- Settles O25. -/
theorem identityAndPersistWrites : Obligations.IdentityAndPersistWrites := by
  intro s t hr h
  refine ⟨identity_of_writeRomAccepts hr h, identity_of_not_writeRomAccepts hr h, fun hp => ?_⟩
  refine (identity_of_not_writeRomAccepts hr h ?_).2
  rintro ⟨⟨_, _, ⟨hend, _⟩, _⟩, _⟩
  simp [hp] at hend

/-! #### `resume_eligible` -/

theorem ite_resumeEligible {p : Prop} [Decidable p] {a b : State} {r : Bool} (ha : a.resumeEligible = r)
    (hb : b.resumeEligible = r) : (if p then a else b).resumeEligible = r := by
  split
  · exact ha
  · exact hb

/-- A data transfer writes `resume_eligible` in MATCH ROM only (R234). -/
theorem exec_transfer_resumeEligible {i : Instr} {step : RomStep} {op : TransferOp} {n t : State}
    (hs : n.st = .romExec) (hop : romExecOp i step = some op) (hi : i ≠ .matchRom) (h : exec i n = .next t) :
    t.resumeEligible = n.resumeEligible := by
  have hsearch : n.searchNext.resumeEligible = n.resumeEligible := ite_resumeEligible rfl (ite_resumeEligible rfl rfl)
  have hread : (n.sendNext State.readRomEnd).resumeEligible = n.resumeEligible :=
    ite_resumeEligible (ite_resumeEligible rfl rfl) rfl
  cases i <;> simp only [romExecOp, reduceCtorEq] at hop <;> obtain rfl := Host.Outcome.next.inj h <;> rw [if_pos hs]
  case searchRom => exact hsearch
  case readRom => exact hread
  case readRom0F => exact hread
  case matchRom => exact absurd rfl hi
  case condSearch => exact hsearch
  case writeRom =>
    unfold State.writeNext
    cases n.rom.step
    · exact ite_resumeEligible (ite_resumeEligible rfl rfl) rfl
    · exact ite_resumeEligible rfl rfl

theorem matchNext_resumeEligible (n : State) : n.matchNext.resumeEligible =
    if n.rom.idx = 7 ∧ n.storeRx.rom.rxb = n.id then true else n.resumeEligible := by
  unfold State.matchNext
  by_cases hidx : n.rom.idx = 7
  · by_cases hid : n.storeRx.rom.rxb = n.id
    · simp only [hidx, hid, and_self, if_true, State.select_resumeEligible]
    · simp only [hidx, hid, and_false, if_true, if_false, State.notSelected_resumeEligible,
        State.storeRx_resumeEligible]
  · simp only [hidx, false_and, if_false, State.nextRxByte_resumeEligible, State.storeRx_resumeEligible]

theorem exec_dispatch_resumeEligible {n t : State} {c : Byte} (hs : n.st ≠ .romExec)
    (h : exec (decodeRomCmd n.cfg c) n = .next t) :
    t.resumeEligible = if c = 0xA5 then n.resumeEligible else false := by
  obtain rfl | rfl | ⟨op, data, step, _, rfl⟩ := exec_dispatch_cases hs h <;> rfl

/-- At the completion of the command byte, every command but RESUME clears eligibility (R231, R238). -/
theorem resumeEligible_of_commandByte {s t : State} (hr : s.inp.rstN = true) (h : step s = .next t)
    (hs : s.st = .romCmd) (hc : opCompletes s) (hd : s.te.client = .rom) :
    t.resumeEligible = if s.completedSr = 0xA5 then s.resumeEligible else false := by
  obtain ⟨m, hm, rfl⟩ := step_command hr (by simp [hs, EngineState.runsTe]) hc hd h
  have hst : s.finished.st ≠ .romExec := by simp [State.finished, hs]
  rw [State.commandAt, if_neg hst] at hm
  rw [State.endTick_resumeEligible, exec_dispatch_resumeEligible hst hm]
  simp [State.finished]

/-- At the completion of a data transfer, MATCH ROM's selection alone sets eligibility (R234). -/
theorem resumeEligible_of_transfer {s t : State} (hi : Inv s) (hr : s.inp.rstN = true) (h : step s = .next t)
    (hs : s.st = .romExec) (hc : opCompletes s) (hd : s.te.client = .rom) :
    (matchSelects s → t.resumeEligible = true) ∧ (¬matchSelects s → t.resumeEligible = s.resumeEligible) := by
  obtain ⟨m, hm, rfl⟩ := step_command hr (by simp [hs, EngineState.runsTe]) hc hd h
  have hst : s.finished.st = .romExec := s.base_st.trans hs
  have hres : s.finished.resumeEligible = s.resumeEligible := s.base_resumeEligible
  have hrom : s.finished.rom = s.rom := s.base_rom
  rw [finished_commandAt hs] at hm
  rw [State.endTick_resumeEligible]
  by_cases hmatch : decodeRomCmd s.cfg s.rom.cmd = .matchRom
  · obtain rfl : s.finished.matchNext = m := by simpa [hmatch, exec, execMatchRom, hst] using hm
    have hsel : matchSelects s ↔ s.finished.rom.idx = 7 ∧ s.finished.storeRx.rom.rxb = s.finished.id := by
      rw [hrom, finished_id]
      refine ⟨fun ⟨_, hidx, hid⟩ => ⟨hidx, (finished_storeRx_rxb hidx).trans hid⟩, fun ⟨hidx, hid⟩ =>
        ⟨⟨hs, hd, hc, hmatch⟩, hidx, (finished_storeRx_rxb hidx).symm.trans hid⟩⟩
    rw [matchNext_resumeEligible, hsel]
    exact ⟨fun hp => if_pos hp, fun hn => (if_neg hn).trans hres⟩
  · refine ⟨fun ⟨⟨_, _, _, hsel⟩, _⟩ => absurd hsel hmatch, fun _ => ?_⟩
    exact (exec_transfer_resumeEligible hst (hi.romExec hs) hmatch hm).trans hres

/-- Settles O26: no rule but a ROM command's writes `resume_eligible`, and a ROM command acts at its byte or at a data
transfer. -/
theorem resumeEligibleWrites : Obligations.ResumeEligibleWrites := by
  intro s t hi hr h
  have hclient : s.st = .romCmd ∨ s.st = .romExec → s.te.client = .rom := fun hs => by
    have hdev := hi.client (hi.teBusy hs)
    cases hd : s.te.client
    · rfl
    · rcases hs with hs | hs <;> simp [hs, hd] at hdev
  by_cases hcmd : s.st.runsTe = true ∧ opCompletes s ∧ s.te.client = .rom
  · obtain ⟨hrun, hc, hd⟩ := hcmd
    have hdev : s.st ≠ .device := fun hs => by
      have := (hi.client (by simp [hc.1])).2 hs
      simp [hd] at this
    obtain hs | hs : s.st = .romCmd ∨ s.st = .romExec := by simpa [EngineState.runsTe, hdev] using hrun
    · have hres := resumeEligible_of_commandByte hr h hs hc hd
      refine ⟨fun _ _ hne => by rw [hres, if_neg hne], fun hsel => ?_, fun hn _ => ?_⟩
      · simp [hsel.1.1] at hs
      · rw [hres, if_pos (by simpa [hs, hc] using hn)]
    · have hres := resumeEligible_of_transfer hi hr h hs hc hd
      exact ⟨fun hs' => by simp [hs'] at hs, hres.1, fun _ hn => hres.2 hn⟩
  · obtain ⟨m, hm, rfl⟩ := step_tickRule hr h
    have hres : (s.endTick m).resumeEligible = s.resumeEligible :=
      (s.endTick_resumeEligible m).trans (hm.sameRomOwned hcmd).resume
    refine ⟨fun hs hc _ => ?_, fun hsel => ?_, fun _ _ => hres⟩
    · exact absurd ⟨by simp [hs, EngineState.runsTe], hc, hclient (.inl hs)⟩ hcmd
    · obtain ⟨hs, hd, hc, _⟩ := hsel.1
      exact absurd ⟨by simp [hs, EngineState.runsTe], hc, hd⟩ hcmd

/-! ### The interrupt hook -/

theorem step_irqAck_ignored {s : State} (hr : s.inp.rstN = true) (hs : s.st ≠ .irqHook) (b : Bool) :
    step s = step (s.withInputs { s.inp with irqAck := b }) := by
  obtain ⟨n, hn, hn'⟩ := requestTick_withInputs (x := { s.inp with irqAck := b }) rfl ⟨rfl, rfl, rfl⟩ fun _ _ => rfl
  have hengine := engineTick_withInputs (x := { s.inp with irqAck := b }) rfl (fun _ _ => rfl) (fun h => absurd h hs)
    (fun _ _ => rfl) n
  exact (step_withInputs (x := { s.inp with irqAck := b }) rfl hr hr hn hn' hengine ⟨rfl, rfl, rfl⟩).symm

/-- Settles O50: the rule of IRQ_HOOK looks at `irq_ack` alone, and no other rule reads that port. -/
theorem irqHook : Obligations.IrqHook := by
  intro s hi hr
  refine ⟨fun hs => ?_, fun hs => ⟨by simp [State.irqReq, hs], ?_⟩⟩
  · obtain ⟨_, hawait, _, harmed⟩ := hi.controlAt hs
    have hdl : s.base.dl = ⟨-1, false⟩ := by
      have hcount := hi.dlOff harmed
      cases hd : s.dl
      simp_all [dlCount]
    have hleave : s.base.leaveIrqHook = { s.base with st := .idle } := by
      rw [State.leaveIrqHook, State.dlStop, ← hdl, ← hawait, ← s.base_awaitingReset]
    have hstep : step s = .next (s.endTick (irqHookTick s s.base)) := by
      simp [step_base hi.valid hr, hs, engineTick, andThen]
    refine ⟨by simp [State.irqReq, hs], fun ha => ?_, fun ha => ?_⟩
    · rw [hstep, irqHookTick, if_pos ha, hleave]
    · rw [hstep, irqHookTick, if_neg (by simp [ha])]
  · exact step_irqAck_ignored hr hs false

/-! ### The line, seen late -/

theorem after_cfg {s t : State} {k : Nat} (h : After s k t) : t.cfg = s.cfg := by
  induction k generalizing t with
  | zero => rw [after_zero.1 h]
  | succ k ih =>
    obtain ⟨v, hv, ht⟩ := after_succ.1 h
    exact (step_cfg ht).trans (ih hv)

/-- The line of a tick is remembered for `IN_LATENCY` ticks. -/
theorem after_lineHist {s t : State} {k : Nat} (h : After s (k + 1) t) (hk : k < s.cfg.inLatency) :
    t.env.lineHist[k]? = some s.line := by
  induction k generalizing t with
  | zero =>
    obtain ⟨v, hv, ht⟩ := after_succ.1 h
    obtain rfl := after_zero.1 hv
    simp [step_env ht, State.nextEnv, hk]
  | succ k ih =>
    obtain ⟨v, hv, ht⟩ := after_succ.1 h
    have hlast := ih hv (by omega)
    simp [step_env ht, State.nextEnv, after_cfg hv, hk, hlast]

/-- Settles O58: the sample is read from the remembered line. -/
theorem lineSeenLate : Obligations.LineSeenLate := by
  intro s t h
  show t.lineS = s.line
  have hcfg := after_cfg h
  unfold State.lineS
  cases hl : s.cfg.inLatency with
  | zero =>
    rw [hl] at h
    simp [hl, after_zero.1 h]
  | succ k =>
    rw [hl] at h
    simp [hcfg, hl, after_lineHist h (by omega)]

/-! ### Block reset and the output ports -/

theorem afterReset_outputs (cfg : Config) (family : Byte) (serial : BitVec 48) (env : Environment) :
    (State.afterReset cfg family serial env).outputs =
      ⟨false, false, ⟨false, .ok, 0⟩, false, cfg.hasSleep, ⟨false, 0⟩, true, false⟩ := by
  simp [State.outputs, State.afterReset, State.owDrive, State.sel, State.irqReq, State.sleepReq, State.awaitingResetO,
    State.intArmedO]

/-- Settles O60: each port is read off its definition. -/
theorem outputsOfState : Obligations.OutputsOfState := by
  refine ⟨fun s => ⟨?_, ?_, ?_, ?_, rfl, rfl, rfl, rfl⟩, afterReset_outputs⟩
  · simp [State.outputs, State.owDrive, or_assoc, and_assoc]
  · simp [State.outputs, State.sel]
  · simp [State.outputs, State.irqReq]
  · simp [State.outputs, State.sleepReq]

/-- Awake, IDLE without an edge and without a class-2 interrupt waiting goes on (R201, R208). -/
theorem step_idleWaits {s t : State} (hr : s.inp.rstN = true) (h : step s = .next t) (hs : s.st = .idle)
    (hb : s.cfg.hasSleep = false) (he : s.edgeFall = false) (hc : s.class2Pending = false) : t.st = .idle := by
  have hwait : engineTick s s.base = .next s.base := by
    simp [engineTick, hs, idleTick, idleAwake, idleQuiet, hb, he, hc]
  rw [step_base (step_cases h).1 hr (by simp [hs]), hwait] at h
  obtain rfl : s.endTick s.base = t := Host.Outcome.next.inj h
  rw [State.endTick_st, State.base_st, hs]

/-- An edge at a tick needs the line high at the tick before (R17, R42). -/
theorem lineS_of_edgeFall {s t : State} (hr : s.inp.rstN = true) (h : step s = .next t) (he : t.edgeFall = true) :
    s.lineS = true := by
  rw [← step_prevS hr h]
  exact (Bool.and_eq_true_iff.1 he).2

/-- Settles O53: the registers are those of `State.afterReset`, and `prev_s` = 0 lets no edge be seen at the next
tick. -/
theorem blockReset : Obligations.BlockReset := by
  intro s hv hr
  have hedge : s.blockReset.edgeFall = false := Bool.and_false _
  have hclass : s.blockReset.class2Pending = false := Bool.and_false _
  refine ⟨s.blockReset, step_blockReset hv hr, rfl, rfl, fun k => ?_, rfl, rfl, rfl, rfl, rfl, rfl, rfl, rfl, rfl, rfl,
    rfl, rfl, rfl, afterReset_outputs _ _ _ _, hedge, fun u hr' hu => ⟨fun hb => ?_, lineS_of_edgeFall hr' hu⟩⟩
  · fin_cases k <;> rfl
  · exact step_idleWaits hr' hu rfl hb hedge hclass

end Sys2Proof.Machine

/-! PROOFS. The statements of 20_memory.md: the order of the bits of a byte, the identity's load and its checksum, and the
ROM commands that carry the identity, across their transfers. -/

namespace Sys2Proof.Machine

/-! ### The order of the bits of a byte -/

theorem eq_of_bitOf {v w : Byte} (h : ∀ j : BitVec 3, bitOf v j = bitOf w j) : v = w :=
  BitVec.eq_of_getLsbD_eq fun i hi => by simpa [bitOf, Nat.mod_eq_of_lt hi] using h (BitVec.ofNat 3 i)

theorem toNat_add_one_of_ne_seven {k : BitVec 3} (h : k ≠ 7) : (k + 1).toNat = k.toNat + 1 := by bv_omega

theorem setupSlot_recvByte {te : TransferEngine} (h : te.op = .recvByte) : setupSlot te = { te with dir := .recv } := by
  simp [setupSlot, slotBit, h]

theorem setupSlot_sendByte {te : TransferEngine} (h : te.op = .sendByte) :
    setupSlot te = { te with dir := .send, cur := bitOf te.sr te.cnt } := by
  simp [setupSlot, slotBit, h]

theorem completeSlot_recvByte {n : State} (hop : n.te.op = .recvByte) :
    completeSlot n =
      let m : State := { n with te := { n.te with sr := setBitOf n.te.sr n.te.cnt n.te.d } }
      if n.te.cnt = 7 then .done .ok m.te.sr m.teDone else .more (m.nextSlot (n.te.cnt + 1) n.te.tri) := by
  simp [completeSlot, hop]

theorem completeSlot_sendByte {n : State} (hop : n.te.op = .sendByte) :
    completeSlot n =
      if n.te.cnt = 7 then .done .ok 0 n.teDone else .more (n.nextSlot (n.te.cnt + 1) n.te.tri) := by
  simp [completeSlot, hop]

/-- The slot `n` at its completion, with `b` on the line at its sample; a send slot samples nothing (R152). -/
def State.sampleBit (b : Bool) (n : State) : State :=
  { n with te := { n.te with d := if n.te.dir = .recv then b else n.te.d } }

theorem runSlots_more {b : Bool} {bs : List Bool} {n m : State} (h : completeSlot (n.sampleBit b) = .more m) :
    runSlots (b :: bs) n = (slotSends n :: (runSlots bs m).1, (runSlots bs m).2) := by
  unfold State.sampleBit at h
  rw [runSlots, h]

theorem runSlots_done {b : Bool} {bs : List Bool} {n m : State} {x : Status} {r : Byte}
    (h : completeSlot (n.sampleBit b) = .done x r m) : runSlots (b :: bs) n = ([slotSends n], .done x r m) := by
  unfold State.sampleBit at h
  rw [runSlots, h]

/-- A slot of RECV_BYTE that receives bit k of `v`, the bits below it already in `te_sr` (R174). -/
structure ReceivesBit (v : Byte) (k : Nat) (n : State) : Prop where
  op : n.te.op = .recvByte
  cnt : n.te.cnt.toNat = k
  dir : n.te.dir = .recv
  below : ∀ j : BitVec 3, j.toNat < k → bitOf n.te.sr j = bitOf v j

/-- A slot of SEND_BYTE that sends bit k of `v` (R175). -/
structure SendsBit (v : Byte) (k : Nat) (n : State) : Prop where
  op : n.te.op = .sendByte
  cnt : n.te.cnt.toNat = k
  dir : n.te.dir = .send
  sr : n.te.sr = v
  cur : n.te.cur = v.getLsbD k

theorem ReceivesBit.slotSends {v : Byte} {k : Nat} {n : State} (h : ReceivesBit v k n) : slotSends n = none := by
  simp [Machine.slotSends, h.dir]

theorem SendsBit.slotSends {v : Byte} {k : Nat} {n : State} (h : SendsBit v k n) :
    slotSends n = some (v.getLsbD k) := by
  simp [Machine.slotSends, h.dir, h.cur]

theorem ReceivesBit.sampleBit {v : Byte} {k : Nat} {n : State} (h : ReceivesBit v k n) (b : Bool) :
    ReceivesBit v k (n.sampleBit b) :=
  ⟨h.op, h.cnt, h.dir, h.below⟩

theorem SendsBit.sampleBit {v : Byte} {k : Nat} {n : State} (h : SendsBit v k n) (b : Bool) :
    SendsBit v k (n.sampleBit b) :=
  ⟨h.op, h.cnt, h.dir, h.sr, h.cur⟩

theorem sampleBit_d {n : State} (h : n.te.dir = .recv) (b : Bool) : (n.sampleBit b).te.d = b := if_pos h

/-- With the sampled bit written, `te_sr` agrees with `v` up to bit k. -/
theorem ReceivesBit.upTo {v : Byte} {k : Nat} {n : State} (h : ReceivesBit v k n) (hd : n.te.d = v.getLsbD k)
    (j : BitVec 3) (hj : j.toNat < k + 1) : bitOf (setBitOf n.te.sr n.te.cnt n.te.d) j = bitOf v j := by
  by_cases hjk : j = n.te.cnt
  · rw [hjk, bitOf_setBitOf_same, hd, bitOf, h.cnt]
  · have hne : j.toNat ≠ k := fun e => hjk (BitVec.eq_of_toNat_eq (e.trans h.cnt.symm))
    rw [bitOf_setBitOf_other _ _ _ _ hjk, h.below j (by omega)]

theorem ne_seven_of_toNat_lt {c : BitVec 3} {k : Nat} (h : c.toNat = k) (hk : k < 7) : c ≠ 7 := by bv_omega

theorem ReceivesBit.more {v : Byte} {k : Nat} {n : State} (h : ReceivesBit v k n) (hd : n.te.d = v.getLsbD k)
    (hk : k < 7) : ∃ m, completeSlot n = .more m ∧ ReceivesBit v (k + 1) m := by
  have hcnt := ne_seven_of_toNat_lt h.cnt hk
  refine ⟨_, (completeSlot_recvByte h.op).trans (if_neg hcnt), ?_, ?_, ?_, ?_⟩
  · simp [h.op]
  · rw [State.nextSlot_te, setupSlot_cnt, toNat_add_one_of_ne_seven hcnt, h.cnt]
  · simp [setupSlot_recvByte, h.op]
  · rw [State.nextSlot_te, setupSlot_sr]
    exact h.upTo hd

theorem ReceivesBit.done {v : Byte} {n : State} (h : ReceivesBit v 7 n) (hd : n.te.d = v.getLsbD 7) :
    ∃ m, completeSlot n = .done .ok v m := by
  have hv : setBitOf n.te.sr n.te.cnt n.te.d = v := eq_of_bitOf fun j => h.upTo hd j j.isLt
  rw [completeSlot_recvByte h.op]
  dsimp only
  rw [if_pos (BitVec.eq_of_toNat_eq h.cnt), hv]
  exact ⟨_, rfl⟩

theorem SendsBit.more {v : Byte} {k : Nat} {n : State} (h : SendsBit v k n) (hk : k < 7) :
    ∃ m, completeSlot n = .more m ∧ SendsBit v (k + 1) m := by
  have hcnt := ne_seven_of_toNat_lt h.cnt hk
  have hnext : (n.te.cnt + 1).toNat = k + 1 := by rw [toNat_add_one_of_ne_seven hcnt, h.cnt]
  refine ⟨_, (completeSlot_sendByte h.op).trans (if_neg hcnt), ?_, ?_, ?_, ?_, ?_⟩
  · simp [h.op]
  · rw [State.nextSlot_te, setupSlot_cnt, hnext]
  · simp [setupSlot_sendByte, h.op]
  · rw [State.nextSlot_te, setupSlot_sr, h.sr]
  · simp only [State.nextSlot_te, setupSlot_sendByte, h.op, bitOf, hnext, h.sr]

theorem SendsBit.done {v : Byte} {n : State} (h : SendsBit v 7 n) : ∃ m, completeSlot n = .done .ok 0 m :=
  ⟨_, (completeSlot_sendByte h.op).trans (if_pos (BitVec.eq_of_toNat_eq h.cnt))⟩

/-- The slots of RECV_BYTE from bit k on. -/
theorem runSlots_receives {v : Byte} (r : Nat) {k : Nat} {n : State} (hk : k + r = 7) (h : ReceivesBit v k n) :
    ∃ m, runSlots ((List.range' k (r + 1)).map fun j => v.getLsbD j) n = (List.replicate (r + 1) none, .done .ok v m) := by
  induction r generalizing k n with
  | zero =>
    obtain rfl : k = 7 := hk
    obtain ⟨m, hm⟩ := (h.sampleBit _).done (sampleBit_d h.dir _)
    exact ⟨m, (runSlots_done hm).trans (by rw [h.slotSends]; rfl)⟩
  | succ r ih =>
    obtain ⟨n', hn', h'⟩ := (h.sampleBit _).more (sampleBit_d h.dir _) (by omega)
    obtain ⟨m, hm⟩ := ih (by omega) h'
    refine ⟨m, (runSlots_more hn').trans ?_⟩
    rw [hm, h.slotSends]
    rfl

/-- The slots of SEND_BYTE from bit k on. -/
theorem runSlots_sends {v : Byte} (r : Nat) {k : Nat} {n : State} (hk : k + r = 7) (h : SendsBit v k n) :
    ∃ m, runSlots (List.replicate (r + 1) false) n =
      ((List.range' k (r + 1)).map fun j => some (v.getLsbD j), .done .ok 0 m) := by
  induction r generalizing k n with
  | zero =>
    obtain rfl : k = 7 := hk
    obtain ⟨m, hm⟩ := (h.sampleBit false).done
    exact ⟨m, (runSlots_done hm).trans (by rw [h.slotSends]; rfl)⟩
  | succ r ih =>
    obtain ⟨n', hn', h'⟩ := (h.sampleBit false).more (by omega)
    obtain ⟨m, hm⟩ := ih (by omega) h'
    refine ⟨m, (runSlots_more hn').trans ?_⟩
    rw [hm, h.slotSends]
    rfl

/-- Settles O33, by induction on the slots that remain. -/
theorem bytesGoLsbFirst : Obligations.BytesGoLsbFirst := by
  intro v data client n
  rw [bitsOf, List.range_eq_range', List.map_map]
  refine ⟨runSlots_receives 7 rfl ⟨rfl, rfl, rfl, ?_⟩, runSlots_sends 7 rfl ⟨rfl, rfl, rfl, rfl, rfl⟩⟩
  exact fun j hj => absurd hj (Nat.not_lt_zero _)

/-! ### The CRC8 -/

/-- One turn of the register of x^8 + x^5 + x^4 + 1, low bit first (R84). -/
def crcTurn (c : Byte) : Byte := if c.getLsbD 0 then (c >>> 1) ^^^ 0x8C else c >>> 1

/-- The turns of R84 add the message bit by bit; added to the register at once, it gives the same. -/
theorem crcBits_xor (n : Nat) (c v : Byte) : crcBits n c v ^^^ (v >>> n) = crcTurn^[n] (c ^^^ v) := by
  induction n generalizing c v with
  | zero => simp [crcBits]
  | succ n ih =>
    have hturn : (if c.getLsbD 0 ^^ v.getLsbD 0 then (c >>> 1) ^^^ 0x8C else c >>> 1) ^^^ (v >>> 1) =
        crcTurn (c ^^^ v) := by
      rw [crcTurn, BitVec.getLsbD_xor, BitVec.ushiftRight_xor_distrib]
      split
      · rw [BitVec.xor_assoc, BitVec.xor_assoc, BitVec.xor_comm 0x8C]
      · rfl
    rw [crcBits, Nat.add_comm n 1, BitVec.shiftRight_add, ih, hturn, Nat.add_comm 1 n, Function.iterate_succ_apply]

theorem crcBits_eight (c v : Byte) : crcBits 8 c v = crcTurn^[8] (c ^^^ v) := by
  rw [← crcBits_xor, BitVec.ushiftRight_eq_zero le_rfl, BitVec.xor_zero]

theorem crc8_concat (bytes : List Byte) (v : Byte) : crc8 (bytes ++ [v]) = crcTurn^[8] (crc8 bytes ^^^ v) := by
  rw [crc8_append, List.foldl_cons, List.foldl_nil, crcBits_eight]

/-- The top bit of 0x8C remembers the bit that a turn shifts out. -/
theorem crcTurn_top (c : Byte) : (crcTurn c).getLsbD 7 = c.getLsbD 0 := by
  unfold crcTurn
  split <;> simp_all

theorem crcTurn_injective : Function.Injective crcTurn := by
  intro c d h
  have hlow : c.getLsbD 0 = d.getLsbD 0 := by rw [← crcTurn_top, h, crcTurn_top]
  have hhigh : c >>> 1 = d >>> 1 := by
    unfold crcTurn at h
    rw [hlow] at h
    split at h
    · exact BitVec.xor_left_inj _ |>.1 h
    · exact h
  refine BitVec.eq_of_getLsbD_eq fun i _ => ?_
  cases i with
  | zero => exact hlow
  | succ i => simpa [Nat.add_comm] using congrArg (BitVec.getLsbD · i) hhigh

/-- The register after a message tells its value before it. -/
theorem foldl_crcBits_injective (bytes : List Byte) : Function.Injective fun c => bytes.foldl (crcBits 8) c := by
  induction bytes with
  | nil => exact Function.injective_id
  | cons v bytes ih =>
    intro c d h
    have h8 : crcBits 8 c v = crcBits 8 d v := ih h
    rw [crcBits_eight, crcBits_eight] at h8
    exact BitVec.xor_left_inj _ |>.1 (crcTurn_injective.iterate 8 h8)

theorem crc8_ne_of_byte_ne (before after : List Byte) {v w : Byte} (h : v ≠ w) :
    crc8 (before ++ v :: after) ≠ crc8 (before ++ w :: after) := by
  intro e
  rw [crc8_append, crc8_append] at e
  have h8 : crcBits 8 (crc8 before) v = crcBits 8 (crc8 before) w := foldl_crcBits_injective after e
  rw [crcBits_eight, crcBits_eight] at h8
  exact h (BitVec.xor_right_inj _ |>.1 (crcTurn_injective.iterate 8 h8))

/-- A message followed by its CRC8 leaves the register at 0. -/
theorem crc8_residue (bytes : List Byte) : crc8 (bytes ++ [crc8 bytes]) = 0 := by
  rw [crc8_concat, BitVec.xor_self]
  rfl

/-! ### The identity's load -/

theorem packSerial_loadIdentity (family : Byte) (serial : BitVec 48) :
    packSerial (loadIdentity family serial) = serial := by
  show serialByte serial 5 ++ serialByte serial 4 ++ serialByte serial 3 ++ serialByte serial 2 ++ serialByte serial 1 ++
    serialByte serial 0 = serial
  simp only [serialByte, BitVec.extractLsb'_append_extractLsb'_eq_extractLsb']
  exact BitVec.extractLsb'_eq_self

theorem loadIdentity_serial (family : Byte) (serial : BitVec 48) (k : Fin 6) :
    (loadIdentity family serial)[k.val + 1] = serial.extractLsb' (8 * k.val) 8 := by
  fin_cases k <;> rfl

/-- Settles O59. -/
theorem identityLoad : Obligations.IdentityLoad :=
  ⟨fun family serial => ⟨rfl, packSerial_loadIdentity family serial, rfl, loadIdentity_serial family serial⟩,
    crc8_nil, crc8_concat, crc8_residue, fun before after _ _ => crc8_ne_of_byte_ne before after,
    by decide +kernel, by decide +kernel, by decide +kernel, by decide +kernel, by decide +kernel, by decide +kernel,
    by decide +kernel, by decide +kernel, by decide +kernel⟩

/-! ### WRITE ROM at a data transfer -/

theorem exec_writeRom {n : State} (hs : n.st = .romExec) : exec .writeRom n = .next n.writeNext :=
  congrArg Host.Outcome.next (if_pos hs)

theorem writeNext_rx {n : State} (h : n.rom.step = .rx) :
    n.writeNext =
      if n.rom.idx = 7 then
        if n.storeRx.writeAccepted then n.storeRx.adoptIdentity.startEcho else n.storeRx.startEcho
      else n.storeRx.nextRxByte := by
  simp [State.writeNext, h]

theorem writeNext_tx {n : State} (h : n.rom.step = .tx) : n.writeNext = n.sendNext State.notSelected := by
  simp [State.writeNext, h]

theorem writeAccepted_iff (n : State) :
    n.writeAccepted = true ↔ n.rom.rxb[0] = n.id[0] ∧ n.rom.rxb[7] = crc8 (firstSeven n.rom.rxb) := by
  simp [State.writeAccepted]

/-- Settles O21, by the branches of WRITE ROM's completion. -/
theorem writeRomContinues : Obligations.WriteRomContinues := by
  intro s hs a
  have haccept : s.storeRx.writeAccepted = true ↔ a[0] = s.id[0] ∧ a[7] = crc8 (firstSeven a) :=
    writeAccepted_iff s.storeRx
  rw [exec_writeRom hs]
  refine ⟨fun hstep hidx => ?_, fun hstep hidx hfamily hcrc => ?_, fun hstep hidx hno => ?_, fun hstep hidx => ?_,
    fun hstep hidx => ?_⟩
  · rw [writeNext_rx hstep, if_neg hidx]
    rfl
  · rw [writeNext_rx hstep, if_pos hidx, if_pos (haccept.2 ⟨hfamily, hcrc⟩)]
    rfl
  · rw [writeNext_rx hstep, if_pos hidx, if_neg fun h => hno (haccept.1 h)]
    rfl
  · rw [writeNext_tx hstep, State.sendNext, if_neg hidx]
    rfl
  · rw [writeNext_tx hstep, State.sendNext, if_pos hidx]
    rfl

/-! ### A ROM command across its transfers -/

/-- A data transfer of a ROM command, completed with `b` in `te_sr`. -/
def State.transferred (b : Byte) (n : State) : State := State.teDone { n with te := { n.te with sr := b } }

theorem feedRom_cons (i : Instr) (b : Byte) (bs : List Byte) (n : State) :
    feedRom i (b :: bs) n = andThen (exec i (n.transferred b)) (feedRom i bs) := rfl

theorem feedRom_singleton (i : Instr) (b : Byte) (n : State) : feedRom i [b] n = exec i (n.transferred b) := by
  obtain ⟨m, hm⟩ := exec_total i (n.transferred b)
  rw [feedRom_cons, hm]
  rfl

theorem feedRom_append {i : Instr} {bs : List Byte} (cs : List Byte) {n m : State} (h : feedRom i bs n = .next m) :
    feedRom i (bs ++ cs) n = feedRom i cs m := by
  induction bs generalizing n with
  | nil => rw [Host.Outcome.next.inj h, List.nil_append]
  | cons b bs ih =>
    obtain ⟨n', hn', h⟩ := andThen_next h
    rw [List.cons_append, feedRom_cons, State.transferred, hn', andThen, ih h]

theorem runRom_of_exec {i : Instr} {n m : State} (h : exec i n = .next m) (bs : List Byte) :
    runRom i bs n = feedRom i bs m := by
  rw [runRom, h, andThen]

theorem runRom_append {i : Instr} {bs : List Byte} (cs : List Byte) {n m : State} (h : runRom i bs n = .next m) :
    runRom i (bs ++ cs) n = feedRom i cs m := by
  obtain ⟨n', hn', h⟩ := andThen_next h
  rw [runRom_of_exec hn', feedRom_append cs h]

/-- ROM_EXEC for the command byte `c`, its first transfer not yet begun (R231). -/
def State.dispatched (c : Byte) (n : State) : State := { n.receiveCommand c with st := .romExec }

/-! #### The identity is sent -/

/-- `n` with the transfer of identity byte `k` begun (R233, R236). -/
def State.sending (k : BitVec 3) (n : State) : State :=
  { n with
    rom := { n.rom with idx := k }, te := beginsSending .sendByte .rom (byteAt n.id k), intArmed := true
    dl := slotWait n.cfg }

/-- While `st` and `rom_step` are those of `n`, each completed transfer of `i` sends the next identity byte, and the
eighth ends with `last`. -/
def SendsIdentity (i : Instr) (last : State → State) (n : State) : Prop :=
  ∀ m : State, m.st = n.st → m.rom.step = n.rom.step → exec i m = .next (m.sendNext last)

theorem feedRom_sending {i : Instr} {last : State → State} {n : State} (h : SendsIdentity i last n) (k : Nat)
    (hk : k < 8) : feedRom i (List.replicate k 0) (n.sending 0) = .next (n.sending (BitVec.ofNat 3 k)) := by
  induction k with
  | zero => rfl
  | succ k ih =>
    have hidx : ((n.sending (BitVec.ofNat 3 k)).transferred 0).rom.idx ≠ 7 := by
      show BitVec.ofNat 3 k ≠ 7
      bv_omega
    rw [List.replicate_succ', feedRom_append [0] (ih (by omega)), feedRom_singleton,
      h ((n.sending (BitVec.ofNat 3 k)).transferred 0) rfl rfl, State.sendNext, if_neg hidx, BitVec.ofNat_add]
    rfl

theorem feedRom_sent {i : Instr} {last : State → State} {n : State} (h : SendsIdentity i last n) :
    feedRom i (List.replicate 8 0) (n.sending 0) = .next (last ((n.sending 7).transferred 0)) := by
  rw [List.replicate_succ', feedRom_append [0] (feedRom_sending h 7 (by omega)), feedRom_singleton]
  exact h ((n.sending 7).transferred 0) rfl rfl

theorem byteAt_ofNat (v : ByteFile) (k : Fin 8) : byteAt v (BitVec.ofNat 3 k) = v[k] := by
  simp [byteAt]

/-- READ ROM's dispatch, under either code, begins the transfer of `id[0]` (R233). -/
theorem exec_readRom_dispatch {i : Instr} (hi : i = .readRom ∨ i = .readRom0F) {s : State} (hs : s.st ≠ .romExec) :
    ∃ c : Byte, exec i s = .next ((s.dispatched c).sending 0) ∧ c ≠ 0xA5 := by
  obtain rfl | rfl := hi
  · exact ⟨0x33, congrArg Host.Outcome.next (if_neg hs), by decide⟩
  · exact ⟨0x0F, congrArg Host.Outcome.next (if_neg hs), by decide⟩

theorem readRom_sendsIdentity {i : Instr} (hi : i = .readRom ∨ i = .readRom0F) {n : State} (hs : n.st = .romExec) :
    SendsIdentity i State.readRomEnd n := by
  intro m hm _
  obtain rfl | rfl := hi <;> exact congrArg Host.Outcome.next (if_pos (hm.trans hs))

theorem readRomEnd_st (n : State) : n.readRomEnd.st = if n.cfg.readRomSelects then .device else .idle := by
  unfold State.readRomEnd
  split <;> rfl

theorem readRomEnd_id (n : State) : n.readRomEnd.id = n.id := by
  unfold State.readRomEnd
  split <;> rfl

theorem readRomEnd_resumeEligible (n : State) : n.readRomEnd.resumeEligible = n.resumeEligible := by
  unfold State.readRomEnd
  split <;> rfl

/-- Settles O22. -/
theorem readRomSendsIdentity : Obligations.ReadRomSendsIdentity := by
  intro s i hi hs
  obtain ⟨c, hexec, hc⟩ := exec_readRom_dispatch hi hs
  have hsends := readRom_sendsIdentity hi (n := s.dispatched c) rfl
  refine ⟨fun k => ⟨_, (runRom_of_exec hexec _).trans (feedRom_sending hsends k k.isLt), rfl, ?_, rfl⟩,
    _, (runRom_of_exec hexec _).trans (feedRom_sent hsends), readRomEnd_id _, ?_, readRomEnd_st _⟩
  · exact congrArg (beginsSending .sendByte .rom) (byteAt_ofNat s.id k)
  · rw [readRomEnd_resumeEligible]
    exact if_neg hc

/-! #### Eight bytes are received -/

/-- `n` with the transfer of the received byte `k` begun, `v` in `rxb` (R234, R236). -/
def State.receiving (v : ByteFile) (k : BitVec 3) (n : State) : State :=
  { n with
    rom := { n.rom with rxb := v, idx := k }, te := beginsReceiving .recvByte .rom n.te.cur, intArmed := true
    dl := slotWait n.cfg }

/-- While `st` and `rom_step` are those of `n`, each completed transfer of `i` but the eighth keeps its byte and receives
the next one. -/
def ReceivesBytes (i : Instr) (n : State) : Prop :=
  ∀ m : State, m.st = n.st → m.rom.step = n.rom.step → m.rom.idx ≠ 7 → exec i m = .next m.storeRx.nextRxByte

theorem feedRom_receiving {i : Instr} {n : State} (h : ReceivesBytes i n) (v : ByteFile) (a : ByteFile) (k : Nat)
    (hk : k < 8) :
    ∃ w : ByteFile, feedRom i (a.toList.take k) (n.receiving v 0) = .next (n.receiving w (BitVec.ofNat 3 k)) ∧
      ∀ j : BitVec 3, j.toNat < k → byteAt w j = byteAt a j := by
  induction k with
  | zero => exact ⟨v, rfl, fun j hj => absurd hj (Nat.not_lt_zero _)⟩
  | succ k ih =>
    obtain ⟨w, hfeed, hw⟩ := ih (by omega)
    have hidx : ((n.receiving w (BitVec.ofNat 3 k)).transferred a[k]).rom.idx ≠ 7 := by
      show BitVec.ofNat 3 k ≠ 7
      bv_omega
    refine ⟨setByteAt w (BitVec.ofNat 3 k) a[k], ?_, fun j hj => ?_⟩
    · rw [List.take_succ_eq_append_getElem (by simp; omega), feedRom_append _ hfeed, Vector.getElem_toList,
        feedRom_singleton, h ((n.receiving w (BitVec.ofNat 3 k)).transferred a[k]) rfl rfl hidx, BitVec.ofNat_add]
      rfl
    · by_cases hjk : j = BitVec.ofNat 3 k
      · rw [hjk, byteAt_setByteAt_same]
        exact (byteAt_ofNat a ⟨k, by omega⟩).symm
      · rw [byteAt_setByteAt_other _ _ _ _ hjk, hw j (by bv_omega)]

theorem eq_of_byteAt {v w : ByteFile} (h : ∀ j : BitVec 3, byteAt v j = byteAt w j) : v = w :=
  Vector.ext fun k hk => by
    simpa [byteAt, Nat.mod_eq_of_lt hk] using h (BitVec.ofNat 3 k)

/-- `n` at the completion of the eighth byte, with all eight in `rxb`. -/
def State.received (a : ByteFile) (n : State) : State := (n.receiving a 7).transferred a[7]

/-- The eighth byte completes with the eight bytes as they were sent in `rxb`. -/
theorem feedRom_received {i : Instr} {n : State} (h : ReceivesBytes i n) (v a : ByteFile) :
    ∃ m, feedRom i a.toList (n.receiving v 0) = exec i m ∧ m.st = n.st ∧ m.rom.idx = 7 ∧
      m.rom.step = n.rom.step ∧ m.storeRx = n.received a := by
  obtain ⟨w, hfeed, hw⟩ := feedRom_receiving h v a 7 (by omega)
  have hsplit : a.toList = a.toList.take 7 ++ [a[7]] := by
    rw [← Vector.getElem_toList, ← List.take_succ_eq_append_getElem, List.take_of_length_le] <;> simp
  have hall : setByteAt w 7 a[7] = a := by
    refine eq_of_byteAt fun j => ?_
    by_cases hj : j = 7
    · rw [hj, byteAt_setByteAt_same]
      rfl
    · rw [byteAt_setByteAt_other _ _ _ _ hj, hw j (by bv_omega)]
  refine ⟨(n.receiving w 7).transferred a[7], ?_, rfl, rfl, rfl, ?_⟩
  · rw [hsplit, feedRom_append _ hfeed, feedRom_singleton]
    rfl
  · have hkept : ((n.receiving w 7).transferred a[7]).storeRx =
        (n.receiving (setByteAt w 7 a[7]) 7).transferred a[7] := rfl
    rw [hkept, hall, State.received]

/-! #### MATCH ROM -/

theorem exec_matchRom_dispatch {s : State} (hs : s.st ≠ .romExec) :
    exec .matchRom s = .next ((s.dispatched 0x55).receiving s.rom.rxb 0) :=
  congrArg Host.Outcome.next (if_neg hs)

theorem exec_matchRom {n : State} (hs : n.st = .romExec) : exec .matchRom n = .next n.matchNext :=
  congrArg Host.Outcome.next (if_pos hs)

theorem matchRom_receivesBytes {n : State} (hs : n.st = .romExec) : ReceivesBytes .matchRom n :=
  fun _ hm _ hidx => (exec_matchRom (hm.trans hs)).trans (congrArg Host.Outcome.next (if_neg hidx))

theorem matchNext_last {n : State} (h : n.rom.idx = 7) :
    n.matchNext =
      if n.storeRx.rom.rxb = n.storeRx.id then
        State.select { n.storeRx with resumeEligible := true, alarmAsserted := false }
      else n.storeRx.notSelected :=
  if_pos h

/-- MATCH ROM with eight bytes comes down to its one comparison (R234). -/
theorem runRom_matchRom {s : State} (hs : s.st ≠ .romExec) (a : ByteFile) :
    runRom .matchRom a.toList s =
      .next (if a = s.id then
        State.select { (s.dispatched 0x55).received a with resumeEligible := true, alarmAsserted := false }
      else ((s.dispatched 0x55).received a).notSelected) := by
  obtain ⟨m, hfeed, hm, hidx, -, hstore⟩ :=
    feedRom_received (matchRom_receivesBytes (n := s.dispatched 0x55) rfl) s.rom.rxb a
  rw [runRom_of_exec (exec_matchRom_dispatch hs), hfeed, exec_matchRom hm, matchNext_last hidx, hstore]
  rfl

/-- Settles O23. -/
theorem matchRomSelectsExactly : Obligations.MatchRomSelectsExactly := by
  intro s a hs
  refine ⟨_, runRom_matchRom hs a, ?_⟩
  by_cases ha : a = s.id
  · rw [if_pos ha, decide_eq_true ha, Bool.not_true, Bool.and_false]
    exact ⟨rfl, rfl, iff_of_true rfl ha, iff_of_false nofun (not_not_intro ha), rfl, rfl, rfl⟩
  · rw [if_neg ha, decide_eq_false ha, Bool.not_false, Bool.and_true]
    exact ⟨rfl, rfl, iff_of_false nofun ha, iff_of_true rfl ha, rfl, rfl, rfl⟩

/-! #### WRITE ROM -/

/-- WRITE ROM in ROM_EXEC before its first byte is received (R236). -/
def State.writing (s : State) : State := { s.dispatched 0xD5 with rom := { (s.dispatched 0xD5).rom with step := .rx } }

theorem exec_writeRom_dispatch {s : State} (hs : s.st ≠ .romExec) :
    exec .writeRom s = .next (s.writing.receiving s.rom.rxb 0) :=
  congrArg Host.Outcome.next (if_neg hs)

theorem writeRom_receivesBytes {n : State} (hs : n.st = .romExec) (hstep : n.rom.step = .rx) :
    ReceivesBytes .writeRom n := by
  intro m hm hmstep hidx
  rw [exec_writeRom (hm.trans hs), writeNext_rx (hmstep.trans hstep), if_neg hidx]

theorem writeRom_sendsIdentity {n : State} (hs : n.st = .romExec) (hstep : n.rom.step = .tx) :
    SendsIdentity .writeRom State.notSelected n :=
  fun _ hm hmstep =>
    (exec_writeRom (hm.trans hs)).trans (congrArg Host.Outcome.next (writeNext_tx (hmstep.trans hstep)))

/-- WRITE ROM's turn to the echo, with the identity adopted if the received bytes pass the check (R236). -/
def State.echoing (n : State) : State :=
  { (if n.writeAccepted then n.adoptIdentity else n) with rom := { n.rom with step := .tx } }

theorem echoing_of_accepted {n : State} (h : n.writeAccepted = true) :
    n.echoing = { n.adoptIdentity with rom := { n.rom with step := .tx } } := by
  rw [State.echoing, if_pos h]

theorem echoing_of_rejected {n : State} (h : n.writeAccepted = false) :
    n.echoing = { n with rom := { n.rom with step := .tx } } := by
  simp [State.echoing, h]

theorem echoing_st (n : State) : n.echoing.st = n.st := by
  cases h : n.writeAccepted
  · rw [echoing_of_rejected h]
  · rw [echoing_of_accepted h, State.adoptIdentity_st]

theorem echoing_resumeEligible (n : State) : n.echoing.resumeEligible = n.resumeEligible := by
  cases h : n.writeAccepted
  · rw [echoing_of_rejected h]
  · rw [echoing_of_accepted h, State.adoptIdentity_resumeEligible]

theorem echoing_id (n : State) : n.echoing.id = if n.writeAccepted then n.rom.rxb else n.id := by
  cases h : n.writeAccepted
  · rw [echoing_of_rejected h, if_neg Bool.false_ne_true]
  · rw [echoing_of_accepted h, if_pos rfl]
    exact adoptIdentity_id ((writeAccepted_iff n).1 h).1

theorem echoing_nv (n : State) : n.echoing.nv = if n.writeAccepted then ⟨true, packSerial n.rom.rxb⟩ else n.nv := by
  cases h : n.writeAccepted
  · rw [echoing_of_rejected h, if_neg Bool.false_ne_true]
  · rw [echoing_of_accepted h, if_pos rfl, State.adoptIdentity_nv]

theorem writeNext_last {n : State} (hstep : n.rom.step = .rx) (hidx : n.rom.idx = 7) :
    n.writeNext = n.storeRx.echoing.sending 0 := by
  rw [writeNext_rx hstep, if_pos hidx]
  cases h : n.storeRx.writeAccepted
  · rw [echoing_of_rejected h]
    rfl
  · rw [echoing_of_accepted h]
    rfl

theorem echoing_step (n : State) : n.echoing.rom.step = .tx := rfl

/-- The first eight transfers of WRITE ROM: the check decides the identity, and the echo begins (R85, R236). -/
theorem runRom_writeRom {s : State} (hs : s.st ≠ .romExec) (a : ByteFile) :
    ∃ e : State, runRom .writeRom a.toList s = .next (e.sending 0) ∧ e.st = .romExec ∧ e.rom.step = .tx ∧
      (e.id = if a[0] = s.id[0] ∧ a[7] = crc8 (firstSeven a) then a else s.id) ∧
      (e.nv = if a[0] = s.id[0] ∧ a[7] = crc8 (firstSeven a) then ⟨true, packSerial a⟩ else s.nv) ∧
      e.resumeEligible = false := by
  obtain ⟨m, hfeed, hm, hidx, hstep, hstore⟩ :=
    feedRom_received (writeRom_receivesBytes (n := s.writing) rfl rfl) s.rom.rxb a
  have haccept : (s.writing.received a).writeAccepted = true ↔ a[0] = s.id[0] ∧ a[7] = crc8 (firstSeven a) :=
    writeAccepted_iff _
  simp only [← haccept]
  refine ⟨(s.writing.received a).echoing, ?_, echoing_st _, echoing_step _, echoing_id _, echoing_nv _,
    echoing_resumeEligible _⟩
  rw [runRom_of_exec (exec_writeRom_dispatch hs), hfeed, exec_writeRom hm, writeNext_last hstep hidx, hstore]

/-- Settles O24. -/
theorem writeRomAdoptsAndEchoes : Obligations.WriteRomAdoptsAndEchoes := by
  intro s a hs
  obtain ⟨e, hrun, hst, hstep, hid, hnv, hresume⟩ := runRom_writeRom hs a
  have hsends := writeRom_sendsIdentity hst hstep
  refine ⟨e.sending 0, hid, hnv, hrun, fun k => ?_, _,
    (runRom_append _ hrun).trans (feedRom_sent hsends), rfl, rfl, rfl, hresume⟩
  exact ⟨_, (runRom_append _ hrun).trans (feedRom_sending hsends k k.isLt),
    congrArg (beginsSending .sendByte .rom) (byteAt_ofNat e.id k), hst, rfl⟩

end Sys2Proof.Machine

/-! PROOFS. The statements of 30_encoding.md: the decoder and the encoder agree, the ROM command bytes and the transfer
opcodes; how a request begins its operation, and how a device-layer operation answers. -/

namespace Sys2Proof.Machine

/-! ### ROM command bytes -/

theorem decode_byte (cfg : Config) (c : Byte) : decode cfg [c] = .ok (decodeRomCmd cfg c) := rfl

theorem decodeRomCmd_searchRom (cfg : Config) : decodeRomCmd cfg 0xF0 = .searchRom := by simp [decodeRomCmd]

theorem decodeRomCmd_readRom (cfg : Config) : decodeRomCmd cfg 0x33 = .readRom := by simp [decodeRomCmd]

theorem decodeRomCmd_readRom0F (cfg : Config) : decodeRomCmd cfg 0x0F = .readRom0F := by simp [decodeRomCmd]

theorem decodeRomCmd_matchRom (cfg : Config) : decodeRomCmd cfg 0x55 = .matchRom := by simp [decodeRomCmd]

theorem decodeRomCmd_skipRom (cfg : Config) : decodeRomCmd cfg 0xCC = .skipRom := by simp [decodeRomCmd]

theorem decodeRomCmd_writeRom {cfg : Config} (h : cfg.hasWriteRom = true) : decodeRomCmd cfg 0xD5 = .writeRom := by
  simp [decodeRomCmd, h]

theorem decodeRomCmd_condSearch {cfg : Config} (h : cfg.hasCondSearch = true) :
    decodeRomCmd cfg 0xEC = .condSearch := by
  simp [decodeRomCmd, h]

theorem decodeRomCmd_resume (cfg : Config) : decodeRomCmd cfg 0xA5 = .resume := by simp [decodeRomCmd]

theorem mem_romCodes (cfg : Config) (c : Byte) : c ∈ cfg.romCodes ↔
    c = 0xF0 ∨ c = 0x33 ∨ c = 0x0F ∨ c = 0x55 ∨ c = 0xCC ∨ c = 0xA5 ∨
      (c = 0xD5 ∧ cfg.hasWriteRom = true) ∨ (c = 0xEC ∧ cfg.hasCondSearch = true) := by
  cases hw : cfg.hasWriteRom <;> cases hc : cfg.hasCondSearch <;> simp [Config.romCodes, hw, hc]

theorem unrecognized_wf (cfg : Config) (c : Byte) : Instr.wf cfg (.unrecognized c) = true ↔ c ∉ cfg.romCodes := by
  simp [Instr.wf]

theorem decodeRomCmd_unrecognized {cfg : Config} {c : Byte} (h : c ∉ cfg.romCodes) :
    decodeRomCmd cfg c = .unrecognized c := by
  simp only [mem_romCodes, not_or] at h
  simp only [decodeRomCmd, h, ↓reduceIte]

/-- The decoder answers only instructions that exist (R102). -/
theorem decodeRomCmd_wf (cfg : Config) (c : Byte) : (decodeRomCmd cfg c).wf cfg = true := by
  by_cases hc : c ∈ cfg.romCodes
  · obtain rfl | rfl | rfl | rfl | rfl | rfl | ⟨rfl, hw⟩ | ⟨rfl, hs⟩ := (mem_romCodes cfg c).1 hc
    · rw [decodeRomCmd_searchRom, Instr.wf]
    · rw [decodeRomCmd_readRom, Instr.wf]
    · rw [decodeRomCmd_readRom0F, Instr.wf]
    · rw [decodeRomCmd_matchRom, Instr.wf]
    · rw [decodeRomCmd_skipRom, Instr.wf]
    · rw [decodeRomCmd_resume, Instr.wf]
    · rw [decodeRomCmd_writeRom hw, Instr.wf, hw]
    · rw [decodeRomCmd_condSearch hs, Instr.wf, hs]
  · rw [decodeRomCmd_unrecognized hc, unrecognized_wf]
    exact hc

theorem decodeRomCmd_eq_unrecognized_iff (cfg : Config) (c : Byte) :
    decodeRomCmd cfg c = .unrecognized c ↔ c ∉ cfg.romCodes := by
  refine ⟨fun h => (unrecognized_wf cfg c).1 ?_, decodeRomCmd_unrecognized⟩
  rw [← h]
  exact decodeRomCmd_wf cfg c

/-! ### Transfer request words -/

/-- SEND_BIT's operand is its seven ignored bits above the bit it sends (R113). -/
theorem sendBit_operand_split (data : Byte) :
    data.extractLsb' 1 7 ++ BitVec.ofBool (data.getLsbD 0) = data :=
  BitVec.concat_extractLsb'_getLsb

theorem sendBit_operand_bit (rest : BitVec 7) (b : Bool) : (rest ++ BitVec.ofBool b).getLsbD 0 = b :=
  BitVec.getLsbD_concat_zero

theorem decodeXreq_one (data : Byte) : decodeXreq 1 data =
    if data.getLsbD 0 then .sendBit1 (data.extractLsb' 1 7) else .sendBit0 (data.extractLsb' 1 7) := rfl

theorem decodeXreq_sendBit (rest : BitVec 7) (b : Bool) :
    decodeXreq 1 (rest ++ BitVec.ofBool b) = if b then .sendBit1 rest else .sendBit0 rest := by
  have hrest : (rest ++ BitVec.ofBool b).extractLsb' 1 7 = rest := BitVec.extractLsb'_append_eq_left
  rw [decodeXreq_one, sendBit_operand_bit, hrest]

theorem opcode_cases (op : BitVec 3) :
    op = 0 ∨ op = 1 ∨ op = 2 ∨ op = 3 ∨ op = 4 ∨ op = 5 ∨ op = 6 ∨ op = 7 := by
  revert op
  decide

theorem encode_decodeXreq (op : BitVec 3) (data : Byte) : encode (decodeXreq op data) = xreqBytes op data := by
  obtain rfl | rfl | rfl | rfl | rfl | rfl | rfl | rfl := opcode_cases op
  case inr.inl =>
    rw [← sendBit_operand_split data, decodeXreq_sendBit]
    cases data.getLsbD 0 <;> rfl
  all_goals rfl

theorem decodeXreq_wf (cfg : Config) (op : BitVec 3) (data : Byte) : (decodeXreq op data).wf cfg = true := by
  obtain rfl | rfl | rfl | rfl | rfl | rfl | rfl | rfl := opcode_cases op
  case inr.inl =>
    rw [decodeXreq_one]
    split <;> rfl
  all_goals rfl

theorem decodeXreq_transfer_eq_none_iff (op : BitVec 3) (data : Byte) :
    (decodeXreq op data).transfer = none ↔ op = 6 ∨ op = 7 := by
  obtain rfl | rfl | rfl | rfl | rfl | rfl | rfl | rfl := opcode_cases op
  case inr.inl =>
    rw [decodeXreq_one]
    split <;> simp [Instr.transfer]
  all_goals simp [decodeXreq, Instr.transfer]

/-! ### The decoder on bytes -/

/-- Everything the decoder can answer: a ROM command byte, a transfer request's word, or a rejection. -/
theorem decode_cases (cfg : Config) (bs : List Byte) :
    (∃ c, bs = [c] ∧ decode cfg bs = .ok (decodeRomCmd cfg c)) ∨
    (∃ op data, bs = xreqBytes op data ∧ decode cfg bs = .ok (decodeXreq op data)) ∨
    (∃ e, decode cfg bs = .error e) := by
  match bs with
  | [] => exact .inr (.inr ⟨_, rfl⟩)
  | [c] => exact .inl ⟨c, rfl, rfl⟩
  | [data, op] =>
    by_cases hop : op.toNat < 8
    · have hword : xreqBytes (op.setWidth 3) data = [data, op] := by
        have : (op.setWidth 3).setWidth 8 = op := by bv_omega
        rw [xreqBytes, this]
      exact .inr (.inl ⟨op.setWidth 3, data, hword.symm, hword ▸ decode_xreqBytes cfg _ data⟩)
    · exact .inr (.inr ⟨_, if_neg hop⟩)
  | _ :: _ :: _ :: _ => exact .inr (.inr ⟨_, rfl⟩)

/-- Settles O1, row by row of the opcode table. -/
theorem decodeEncodeAgree : Obligations.DecodeEncodeAgree := by
  intro cfg i hi
  have hxreq : ∀ op data j, decodeXreq op data = j → decode cfg (xreqBytes op data) = .ok j :=
    fun op data j h => h ▸ decode_xreqBytes cfg op data
  cases i with
  | searchRom => exact congrArg Except.ok (decodeRomCmd_searchRom cfg)
  | readRom => exact congrArg Except.ok (decodeRomCmd_readRom cfg)
  | readRom0F => exact congrArg Except.ok (decodeRomCmd_readRom0F cfg)
  | matchRom => exact congrArg Except.ok (decodeRomCmd_matchRom cfg)
  | skipRom => exact congrArg Except.ok (decodeRomCmd_skipRom cfg)
  | writeRom => exact congrArg Except.ok (decodeRomCmd_writeRom hi)
  | condSearch => exact congrArg Except.ok (decodeRomCmd_condSearch hi)
  | resume => exact congrArg Except.ok (decodeRomCmd_resume cfg)
  | unrecognized c => exact congrArg Except.ok (decodeRomCmd_unrecognized ((unrecognized_wf cfg c).1 hi))
  | recvBit data => exact hxreq 0 data _ rfl
  | sendBit0 rest => exact hxreq 1 _ _ (decodeXreq_sendBit rest false)
  | sendBit1 rest => exact hxreq 1 _ _ (decodeXreq_sendBit rest true)
  | recvByte data => exact hxreq 2 data _ rfl
  | sendByte data => exact hxreq 3 data _ rfl
  | searchBit data => exact hxreq 4 data _ rfl
  | searchByte data => exact hxreq 5 data _ rfl
  | reserved6 data => exact hxreq 6 data _ rfl
  | reserved7 data => exact hxreq 7 data _ rfl

/-- Settles O2: the decoder's three answers, and O1 for what it rejects. -/
theorem encodeDecodeAgree : Obligations.EncodeDecodeAgree := by
  intro cfg bs
  refine ⟨fun i hi => ?_, fun e he i hwf hbs => ?_⟩
  · obtain ⟨c, rfl, h⟩ | ⟨op, data, rfl, h⟩ | ⟨e, h⟩ := decode_cases cfg bs <;> rw [h] at hi
    · obtain rfl := Except.ok.inj hi
      exact ⟨encode_decodeRomCmd cfg c, decodeRomCmd_wf cfg c⟩
    · obtain rfl := Except.ok.inj hi
      exact ⟨encode_decodeXreq op data, decodeXreq_wf cfg op data⟩
    · cases hi
  · subst hbs
    rw [decodeEncodeAgree cfg i hwf] at he
    cases he

/-- Settles O3. -/
theorem romCommandBytes : Obligations.RomCommandBytes := by
  intro cfg
  simp only [decode_byte, Except.ok.injEq]
  refine ⟨decodeRomCmd_searchRom cfg, decodeRomCmd_readRom cfg, decodeRomCmd_readRom0F cfg, decodeRomCmd_matchRom cfg,
    decodeRomCmd_skipRom cfg, decodeRomCmd_writeRom, decodeRomCmd_condSearch, decodeRomCmd_resume cfg, ?_⟩
  intro c hF0 h33 h0F h55 hCC hD5 hEC hA5
  refine decodeRomCmd_unrecognized ?_
  simp only [mem_romCodes, hF0, h33, h0F, h55, hCC, hD5, hEC, hA5, false_and, or_self, not_false_eq_true]

/-- Settles O4. -/
theorem optionalRomCommandsOff : Obligations.OptionalRomCommandsOff := by
  intro cfg
  simp only [decode_byte, Except.ok.injEq, decodeRomCmd_eq_unrecognized_iff, ← mem_romCodes, iff_self, implies_true,
    and_true]
  exact ⟨fun hw => by simp [mem_romCodes, hw], fun hs => by simp [mem_romCodes, hs]⟩

/-- Settles O5: each word is `xreqBytes` of its opcode. -/
theorem transferOpcodes : Obligations.TransferOpcodes := by
  intro cfg data
  have hsend (b : Bool) (hb : data.getLsbD 0 = b) : decode cfg [data, 1] =
      .ok (if b then .sendBit1 (data.extractLsb' 1 7) else .sendBit0 (data.extractLsb' 1 7)) := by
    have h := decode_xreqBytes cfg 1 data
    rw [decodeXreq_one, hb] at h
    exact h
  exact ⟨decode_xreqBytes cfg 0 data, hsend false, hsend true, decode_xreqBytes cfg 2 data, decode_xreqBytes cfg 3 data,
    decode_xreqBytes cfg 4 data, decode_xreqBytes cfg 5 data, decode_xreqBytes cfg 6 data, decode_xreqBytes cfg 7 data⟩

/-- Settles O6. -/
theorem writtenWordsDecode : Obligations.WrittenWordsDecode := by
  unfold Obligations.WrittenWordsDecode
  decide

/-! ### A request at the tick it is presented -/

/-- A request of an operation begins it in an idle session that is not ended (R261). -/
theorem request_begins {s : State} (hs : s.st = .device) (hp : s.te.phase = .idle) (hd : s.inp.devEnd = false)
    (op : TransferOp) (data : Byte) : s.request (some op) data = s.teBegin op data .dev := by
  simp [State.request, hs, hp, hd]

/-- A reserved opcode is answered REFUSED wherever requests are looked at (R106, R263). -/
theorem request_reserved {s : State} (h : ¬(s.st = .device ∧ s.te.phase ≠ .idle)) (data : Byte) :
    s.request none data = s.respond .refused 0 := by
  obtain ⟨_, e⟩ | ⟨hs, hp, _⟩ | ⟨_, _, _, e⟩ | ⟨_, _, _, o, ho, _⟩ := request_cases none data s
  · exact e
  · exact absurd ⟨hs, hp⟩ h
  · exact e
  · cases ho

theorem teBegin_receives {op : TransferOp} (h : op = .recvBit ∨ op = .recvByte) (data : Byte) (c : Client) (n : State) :
    n.teBegin op data c =
      { n with te := beginsReceiving op c n.te.cur, intArmed := true, dl := slotWait n.cfg } := by
  obtain rfl | rfl := h <;> rfl

/-- The other operations send first: the operand's bit 0, of a triplet too (R170, R177). -/
theorem teBegin_sends {op : TransferOp} (h : op ≠ .recvBit ∧ op ≠ .recvByte) (data : Byte) (c : Client) (n : State) :
    n.teBegin op data c =
      { n with te := beginsSending op c (operandSr op data), intArmed := true, dl := slotWait n.cfg } := by
  cases op with
  | recvBit => exact absurd rfl h.1
  | recvByte => exact absurd rfl h.2
  | sendBit => rfl
  | sendByte => rfl
  | searchBit => rfl
  | searchByte => rfl

theorem operandSr_sendBit (rest : BitVec 7) (b : Bool) : operandSr .sendBit (rest ++ BitVec.ofBool b) = zextBit b :=
  congrArg zextBit (sendBit_operand_bit rest b)

/-- Settles O9. -/
theorem receiveRequestsBegin : Obligations.ReceiveRequestsBegin := by
  intro s data hs hp hd
  have hbegins (op : TransferOp) (h : op = .recvBit ∨ op = .recvByte) :=
    (request_begins hs hp hd op data).trans (teBegin_receives h data .dev s)
  exact ⟨congrArg Host.Outcome.next (hbegins .recvBit (.inl rfl)),
    congrArg Host.Outcome.next (hbegins .recvByte (.inr rfl))⟩

/-- Settles O10. -/
theorem sendRequestsBegin : Obligations.SendRequestsBegin := by
  intro s rest data hs hp hd
  have hbegins (op : TransferOp) (h : op ≠ .recvBit ∧ op ≠ .recvByte) (data : Byte) :=
    (request_begins hs hp hd op data).trans (teBegin_sends h data .dev s)
  have hbit (b : Bool) := hbegins .sendBit (by decide) (rest ++ BitVec.ofBool b)
  simp only [operandSr_sendBit] at hbit
  exact ⟨congrArg Host.Outcome.next (hbit false), congrArg Host.Outcome.next (hbit true),
    congrArg Host.Outcome.next (hbegins .sendByte (by decide) data)⟩

/-- Settles O11. -/
theorem searchRequestsBegin : Obligations.SearchRequestsBegin := by
  intro s data hs hp hd
  have hbegins (op : TransferOp) (h : op ≠ .recvBit ∧ op ≠ .recvByte) :=
    (request_begins hs hp hd op data).trans (teBegin_sends h data .dev s)
  exact ⟨congrArg Host.Outcome.next (hbegins .searchBit (by decide)),
    congrArg Host.Outcome.next (hbegins .searchByte (by decide))⟩

/-- Settles O12. -/
theorem reservedRequestsRefused : Obligations.ReservedRequestsRefused := by
  refine ⟨fun s data h => ?_, decodeXreq_transfer_eq_none_iff⟩
  have hrefused := request_reserved h data
  exact ⟨congrArg Host.Outcome.next hrefused, congrArg Host.Outcome.next hrefused⟩

/-! ### The completion of a device-layer operation -/

theorem finished_eq_teDone_recvByte {s : State} (hop : s.te.op = .recvByte) :
    s.finished = State.teDone { s.base with te := { s.te with sr := setBitOf s.te.sr s.te.cnt s.te.d } } := by
  simp [State.finished, State.completedSr, hop, State.teDone, State.dlStop, dlStopped]

theorem completeSlot_recvBit_ends {s : State} (hop : s.te.op = .recvBit) :
    completeSlot s.base = .done .ok (zextBit s.te.d) s.finished := by
  simp [completeSlot, hop, finished_eq_teDone]

theorem completeSlot_sendBit_ends {s : State} (hop : s.te.op = .sendBit) :
    completeSlot s.base = .done .ok 0 s.finished := by
  simp [completeSlot, hop, finished_eq_teDone]

theorem completeSlot_recvByte_ends {s : State} (hop : s.te.op = .recvByte) (hcnt : s.te.cnt = 7) :
    completeSlot s.base = .done .ok (setBitOf s.te.sr 7 s.te.d) s.finished := by
  simp [completeSlot_recvByte, hop, hcnt, finished_eq_teDone_recvByte]

theorem completeSlot_sendByte_ends {s : State} (hop : s.te.op = .sendByte) (hcnt : s.te.cnt = 7) :
    completeSlot s.base = .done .ok 0 s.finished := by
  simp [completeSlot_sendByte, hop, hcnt, finished_eq_teDone]

theorem completeSlot_search {n : State} (hop : n.te.op = .searchBit ∨ n.te.op = .searchByte) :
    completeSlot n = completeSearch n := by
  obtain hop | hop := hop <;> simp [completeSlot, hop]

theorem finished_search {s : State} (hop : s.te.op = .searchBit ∨ s.te.op = .searchByte) :
    s.finished = s.base.teDone :=
  finished_eq_teDone (by obtain hop | hop := hop <;> simp [hop])

/-- The third slot of a triplet in which the master goes the other way ends a search (R177, R178). -/
theorem completeSlot_search_mismatch {s : State} (hop : s.te.op = .searchBit ∨ s.te.op = .searchByte)
    (htri : s.te.tri = 2) (hd : s.te.d ≠ bitOf s.te.sr s.te.cnt) :
    completeSlot s.base = .done .mismatch (zextIndex s.te.cnt) s.finished := by
  rw [completeSlot_search (by simpa using hop), finished_search hop]
  simp [completeSearch, htri, hd]

/-- The third slot of the last triplet ends a search when the master goes this device's way (R177, R178). -/
theorem completeSlot_search_match {s : State} (hop : s.te.op = .searchBit ∨ (s.te.op = .searchByte ∧ s.te.cnt = 7))
    (htri : s.te.tri = 2) (hd : s.te.d = bitOf s.te.sr s.te.cnt) :
    completeSlot s.base = .done .ok (if s.te.op = .searchByte then s.te.sr else 0) s.finished := by
  have hsearch : s.te.op = .searchBit ∨ s.te.op = .searchByte := hop.imp_right And.left
  have hlast : s.te.op = .searchBit ∨ s.te.cnt = 7 := hop.imp_right And.right
  rw [completeSlot_search (by simpa using hsearch), finished_search hsearch, completeSearch, State.base_te,
    if_neg (by simp [htri]), if_neg (not_not.2 hd), if_pos hlast]

/-- An operation of the device layer that ends at this tick answers its result (R180, R262). -/
theorem step_answers_device {s : State} (hv : s.cfg.valid = true) (hr : s.inp.rstN = true) (hs : s.st = .device)
    (hc : s.te.client = .dev) (hp : s.te.phase = .ending) (hl : s.lineS = true) {x : Status} {data : Byte}
    (h : completeSlot s.base = .done x data s.finished) :
    step s = .next (s.endTick { s.finished with rsp := ⟨true, x, data⟩ }) := by
  have hte : teTick s s.base = .next (s.finished.respond x data) := by
    simp [teTick, endingTick, hp, hl, h, deliver, State.finished, hc]
  rw [step_te hv hr (by rw [hs]; rfl) (by simp [hp]), hte]
  rfl

/-- Settles O31: the result of each operation's last slot is its answer. -/
theorem deviceOperationsComplete : Obligations.DeviceOperationsComplete := by
  intro s hv hr hs hc hp hl answers
  have hanswers {x : Status} {data : Byte} (h : completeSlot s.base = .done x data s.finished) : answers x data :=
    step_answers_device hv hr hs hc hp hl h
  refine ⟨fun hop => hanswers (completeSlot_recvBit_ends hop), fun hop => hanswers (completeSlot_sendBit_ends hop),
    fun hop hcnt => hanswers (completeSlot_recvByte_ends hop hcnt),
    fun hop hcnt => hanswers (completeSlot_sendByte_ends hop hcnt),
    fun hop htri hd => hanswers (completeSlot_search_mismatch hop htri hd),
    fun hop htri hd => ?_, fun hop htri hcnt hd => ?_⟩
  · simpa [hop] using hanswers (completeSlot_search_match (.inl hop) htri hd)
  · simpa [hop] using hanswers (completeSlot_search_match (.inr ⟨hop, hcnt⟩) htri hd)

end Sys2Proof.Machine

/-! PROOFS. The statements of 40_bus_primitives.md: the deadline timer over many ticks, the delay of a slot's ACT and of the
four waiting states, and the two interrupt signals, which hold the line low while their delay counts down. -/

namespace Sys2Proof.Machine

/-! ### The deadline timer -/

theorem dlCount_of_armed {cfg : Config} {c : Int} (hc : cfg.dlMin ≤ c) :
    dlCount cfg ⟨c, true⟩ = ⟨max cfg.dlMin (c - 1), true⟩ := by
  by_cases hlow : cfg.dlMin < c
  · rw [dlCount, if_pos ⟨rfl, hlow⟩, max_eq_right (by omega)]
  · rw [dlCount, if_neg fun h => hlow h.2, max_eq_left (by omega), le_antisymm hc (not_lt.1 hlow)]

/-- An armed timer counts down and saturates (R137). -/
theorem dlCount_iterate_armed {cfg : Config} {c : Int} (hc : cfg.dlMin ≤ c) (k : Nat) :
    (dlCount cfg)^[k] ⟨c, true⟩ = ⟨max cfg.dlMin (c - k), true⟩ := by
  induction k with
  | zero => simp [hc]
  | succ k ih =>
    rw [Function.iterate_succ_apply', ih, dlCount_of_armed (le_max_left _ _)]
    congr 1
    omega

/-- A disarmed timer does not count (R138). -/
theorem dlCount_iterate_disarmed (cfg : Config) (c : Int) (k : Nat) : (dlCount cfg)^[k] ⟨c, false⟩ = ⟨c, false⟩ :=
  Function.iterate_fixed (by simp [dlCount]) k

/-- Settles O45: saturating counting, with the tick of `dl_start` itself counted by its `N - 1`. -/
theorem deadlineTimer : Obligations.DeadlineTimer := by
  refine fun cfg k => ⟨fun c hc => dlCount_iterate_armed hc k, fun N n _ hk hlow => ?_, fun n => ?_⟩
  · rw [State.dlStart_dl, dlCount_iterate_armed (by omega), max_eq_right (by omega)]
    congr 1
    omega
  · exact ⟨dlCount_iterate_disarmed cfg (-1) k, rfl⟩

/-! ### The delay of ACT -/

theorem delayTick_goesOn {s : State} (h : s.dly ≠ 1) (n : State) (exit : State → State) :
    delayTick s n exit = { n with dly := s.dly - 1 } :=
  if_neg h

theorem delayTick_ends {s : State} (h : s.dly = 1) (n : State) (exit : State → State) : delayTick s n exit = exit n :=
  if_pos h

theorem step_act {s : State} (hv : s.cfg.valid = true) (hr : s.inp.rstN = true) (hs : s.st.runsTe = true)
    (hp : s.te.phase = .act) : step s = .next (s.endTick (delayTick s s.base (actEnd s))) := by
  rw [step_te hv hr hs (by simp [hp]), teTick, hp]
  rfl

theorem actEnd_recv {s : State} (h : s.te.dir = .recv) :
    actEnd s s.base = { s.base with te := { s.te with phase := .ending, d := s.lineS } } := by
  simp [actEnd, h]

theorem actEnd_send {s : State} (h : s.te.dir = .send) :
    actEnd s s.base = { s.base with te := { s.te with phase := .ending } } := by
  simp [actEnd, h]

/-- Settles O29: ACT is a delay, and `actEnd` samples only in a receive slot. -/
theorem actPhase : Obligations.ActPhase := by
  intro s hv hr hs hp
  rw [step_act hv hr hs hp]
  refine ⟨fun hd => ?_, fun hd hdir => ?_, fun hd hdir => ?_⟩
  · rw [delayTick_goesOn hd]
  · rw [delayTick_ends hd, actEnd_recv hdir]
  · rw [delayTick_ends hd, actEnd_send hdir]

/-! ### One tick of a waiting state -/

/-- What a waiting state does when its delay ends (R207, R209, R210, R212). -/
def delayExit : EngineState → State → State
  | .intStretch, n => n.endStretch
  | .intPulse, n => n.endPulse
  | .presenceWait, n => n.startPresence
  | .presenceLow, n => n.startCommand
  | _, n => n

theorem delays_iff (x : EngineState) :
    x.delays = true ↔ x = .intStretch ∨ x = .intPulse ∨ x = .presenceWait ∨ x = .presenceLow := by
  simp [EngineState.delays, or_assoc]

theorem engineTick_delays {s : State} (h : s.st.delays = true) (n : State) :
    engineTick s n = .next (delayTick s n (delayExit s.st)) := by
  obtain hs | hs | hs | hs := (delays_iff s.st).1 h <;> rw [engineTick, hs] <;> rfl

/-- A tick of a waiting state, whatever happens on the line. -/
theorem step_delays {s : State} (hv : s.cfg.valid = true) (hr : s.inp.rstN = true) (hs : s.st.delays = true) :
    step s = .next (s.endTick (delayTick s s.base (delayExit s.st))) := by
  have hsession : ¬(s.st = .device ∧ s.te.phase = .idle) := fun h => by simp [h.1, EngineState.delays] at hs
  rw [step_base hv hr hsession, engineTick_delays hs]
  rfl

theorem step_delay_goesOn {s : State} (hv : s.cfg.valid = true) (hr : s.inp.rstN = true) (hs : s.st.delays = true)
    (hd : s.dly ≠ 1) : step s = .next (s.endTick { s.base with dly := s.dly - 1 }) := by
  rw [step_delays hv hr hs, delayTick_goesOn hd]

theorem step_delay_ends {s : State} (hv : s.cfg.valid = true) (hr : s.inp.rstN = true) (hs : s.st.delays = true)
    (hd : s.dly = 1) : step s = .next (s.endTick (delayExit s.st s.base)) := by
  rw [step_delays hv hr hs, delayTick_ends hd]

/-- Settles O41: the four waiting states differ in their exits alone. -/
theorem delayStates : Obligations.DelayStates := by
  intro s hv hr
  have hends {x : EngineState} (hs : s.st = x) (hx : x.delays = true) (hd : s.dly = 1) :
      step s = .next (s.endTick (delayExit x s.base)) := by
    subst hs
    exact step_delay_ends hv hr hx hd
  refine ⟨step_delay_goesOn hv hr, fun hs hd => ?_, fun hs hd => ?_, fun hs hd => ?_, fun hs hd => ?_⟩
  · simp [hends hs rfl hd, delayExit, State.endStretch, State.enterMeasure, State.dlStart]
  · simp [hends hs rfl hd, delayExit, State.endPulse, State.enterMeasure, State.dlStart]
  · simp [hends hs rfl hd, delayExit, State.startPresence]
  · simp [hends hs rfl hd, delayExit, State.startCommand, teBegin_receives]

/-! ### A waiting state across its ticks -/

/-- `v` is in the waiting state of `s`, `k` ticks further, with what the wait leaves unchanged. -/
structure Waited (s : State) (k : Nat) (v : State) : Prop where
  cfg : v.cfg = s.cfg
  st : v.st = s.st
  dly : v.dly = s.dly - k
  te : v.te = s.te
  rstQualified : v.rstQualified = s.rstQualified

theorem NoReset.inp {s v : State} {j k : Nat} (hr : NoReset s k) (h : After s j v) (hj : j < k) : v.inp.rstN = true := by
  rw [State.inp, after_inputAt h]
  exact hr j hj

/-- Before its delay has ended a waiting state only counts down (R135). -/
theorem after_delays {s : State} (hv : s.cfg.valid = true) (hs : s.st.delays = true) {k : Nat} (hk : k < s.dly)
    (hr : NoReset s k) : ∃ v, After s k v ∧ Waited s k v := by
  induction k with
  | zero => exact ⟨s, after_zero.2 rfl, rfl, rfl, rfl, rfl, rfl⟩
  | succ k ih =>
    obtain ⟨v, hav, hw⟩ := ih (by omega) fun j hj => hr j (by omega)
    have hstep := step_delay_goesOn (by rwa [hw.cfg]) (hr.inp hav k.lt_add_one) (by rwa [hw.st]) (by rw [hw.dly]; omega)
    exact ⟨_, after_succ.2 ⟨v, hav, hstep⟩, by simp [hw.cfg], by simp [hw.st],
      by simp [hw.dly, Nat.sub_sub], by simp [hw.te], by simp [hw.rstQualified]⟩

/-- At the last tick of its delay a waiting state takes its exit (R135). -/
theorem after_delay {s : State} (hv : s.cfg.valid = true) (hs : s.st.delays = true) (hd : 1 ≤ s.dly)
    (hr : NoReset s s.dly) :
    ∃ v, Waited s (s.dly - 1) v ∧ After s s.dly (v.endTick (delayExit s.st v.base)) := by
  obtain ⟨v, hav, hw⟩ := after_delays hv hs (k := s.dly - 1) (by omega) fun j hj => hr j (by omega)
  have hstep := step_delay_ends (by rwa [hw.cfg]) (hr.inp hav (by omega)) (by rwa [hw.st]) (by rw [hw.dly]; omega)
  rw [hw.st] at hstep
  have hrun := after_succ.2 ⟨v, hav, hstep⟩
  rw [Nat.sub_add_cancel hd] at hrun
  exact ⟨v, hw, hrun⟩

/-! ### The interrupt signals -/

theorem owDrive_of_interruptSignal {s : State} (h : s.st = .intStretch ∨ s.st = .intPulse) : s.owDrive = true := by
  obtain h | h := h <;> simp [State.owDrive, h]

theorem owDrive_of_measuring {s : State} (hs : s.st = .resetMeasure) (hp : s.te.phase = .idle) : s.owDrive = false := by
  simp [State.owDrive, hs, hp]

/-- Both signals end in a new measurement of the reset (R207, R209); the pulse qualifies it (R215). -/
theorem delayExit_interruptSignal {x : EngineState} (h : x = .intStretch ∨ x = .intPulse) (n : State) :
    delayExit x n = n.enterMeasure n.cfg.tResetDeadline (n.rstQualified || decide (x = .intPulse)) := by
  obtain rfl | rfl := h <;> simp [delayExit, State.endStretch, State.endPulse]

/-- Settles O44: both signals are waiting states that drive the line. -/
theorem interruptSignalLasts : Obligations.InterruptSignalLasts := by
  intro s h hs hr
  have hdelays : s.st.delays = true := (delays_iff s.st).2 (hs.imp_right .inl)
  have hoff : s.te.phase = .idle := (h.teOff (by obtain hs | hs := hs <;> rw [hs] <;> rfl)).1
  constructor
  · intro k hk
    obtain ⟨v, hav, hw⟩ := after_delays h.valid hdelays hk fun j hj => hr j (by omega)
    exact ⟨v, hav, hw.st, owDrive_of_interruptSignal (by rwa [hw.st]), hw.dly⟩
  · obtain ⟨v, hw, hrun⟩ := after_delay h.valid hdelays (h.delaying (.inl hdelays)) hr
    rw [delayExit_interruptSignal hs] at hrun
    exact ⟨_, hrun, by simp, owDrive_of_measuring (by simp) (by simpa [hw.te] using hoff), by simp, by simp [hw.cfg],
      by simp [hw.rstQualified]⟩

end Sys2Proof.Machine

/-! PROOFS. The statements of 41_time_slot.md: the ticks of START and of END, then a slot across its ticks, in every
direction and with every width of the master's low. -/

namespace Sys2Proof.Machine

/-! ### A transfer that is stopped -/

theorem abortTransfer_running {n : State} (hp : n.te.phase ≠ .idle) : n.abortTransfer =
    { n with
      te := { n.te with phase := .idle }, intArmed := false,
      rsp := if n.te.client = .dev then ⟨true, .aborted, 0⟩ else n.rsp } := by
  rw [State.abortTransfer, if_neg hp]
  dsimp only
  split <;> rfl

/-- A fault in a slot, before its recovery: the code is written and the transfer stopped (R285). -/
theorem raiseFault_running {n : State} (hp : n.te.phase ≠ .idle) (f : FaultKind) : n.raiseFault f =
    State.recover f { n with
      faultCode := f.code, te := { n.te with phase := .idle }, intArmed := false,
      rsp := if n.te.client = .dev then ⟨true, .aborted, 0⟩ else n.rsp } := by
  rw [State.raiseFault, abortTransfer_running (n := { n with faultCode := f.code }) hp]

/-! ### One tick of START -/

theorem step_start {s : State} (hv : s.cfg.valid = true) (hr : s.inp.rstN = true) (hs : s.st.runsTe = true)
    (hp : s.te.phase = .start) : step s = .next (s.endTick (startTick s s.base)) := by
  rw [step_te hv hr hs (by simp [hp]), teTick, hp]
  rfl

theorem startTick_edge {s : State} (he : s.edgeFall = true) (n : State) : startTick s n = slotStart n := if_pos he

theorem startTick_waits {s : State} (he : s.edgeFall = false) (hc : s.class2Pending = false) (hd : 0 ≤ s.dlRemaining)
    (n : State) : startTick s n = n := by
  simp [startTick, he, hc, hd]

theorem startTick_timeout {s : State} (he : s.edgeFall = false) (hc : s.class2Pending = false) (hd : s.dlRemaining < 0)
    (n : State) : startTick s n = n.raiseFault .timeSlotTimeout := by
  simp [startTick, he, hc, hd]

theorem startTick_pulse {s : State} (he : s.edgeFall = false) (hc : s.class2Pending = true) (n : State) :
    startTick s n = pulseFromStart n := by
  simp [startTick, he, hc]

theorem class2Pending_iff (s : State) :
    s.class2Pending = true ↔ s.cfg.hasInterruptSignal = true ∧ s.intClass = 2 := by
  simp [State.class2Pending]

/-- What the falling edge begins in each of the three slots (R151). -/
theorem slotStart_base_cases (s : State) :
    (s.te.dir = .recv ∧ slotStart s.base = { s.base with
      te := { s.te with phase := .act }, dly := s.cfg.tSample, intArmed := false, dl := slotBound s.cfg }) ∨
    (s.te.dir = .send ∧ s.te.cur = false ∧ slotStart s.base = { s.base with
      te := { s.te with phase := .act }, dly := s.cfg.tW0Low, intArmed := false, dl := slotBound s.cfg }) ∨
    (s.te.dir = .send ∧ s.te.cur = true ∧ slotStart s.base = { s.base with
      te := { s.te with phase := .ending }, intArmed := false, dl := slotBound s.cfg }) := by
  simpa [slotBound, dlStopped] using slotStart_cases s.base

/-- Settles O27: the three slots differ in what their edge begins. -/
theorem slotStartsAtEdge : Obligations.SlotStartsAtEdge := by
  intro s hv hr hs hp he
  rw [step_start hv hr hs hp, startTick_edge he]
  obtain ⟨hdir, e⟩ | ⟨hdir, hcur, e⟩ | ⟨hdir, hcur, e⟩ := slotStart_base_cases s
  · simp [hdir, e]
  · simp [hdir, hcur, e]
  · simp [hdir, hcur, e]

/-- Settles O28: the pulse and the fault both stop the transfer. -/
theorem startWithoutEdge : Obligations.StartWithoutEdge := by
  intro s hv hr hs hp he
  have hbusy : s.base.te.phase ≠ .idle := by simp [hp]
  rw [step_start hv hr hs hp, ← class2Pending_iff, Bool.not_eq_true]
  refine ⟨fun hc => ?_, fun hc hd => ?_, fun hc hd => ?_⟩
  · rw [startTick_pulse he hc, pulseFromStart, abortTransfer_running hbusy]
    simp [State.enterIntPulse, State.dlStop, State.abortedRsp, dlStopped]
  · rw [startTick_timeout he hc hd, raiseFault_running hbusy]
    simp [State.recover, State.recoverToIdle, State.dlStop, State.abortedRsp, dlStopped, FaultKind.code]
  · rw [startTick_waits he hc hd]

/-! ### One tick of END at a low line -/

theorem step_end_low {s : State} (hv : s.cfg.valid = true) (hr : s.inp.rstN = true) (hs : s.st.runsTe = true)
    (hp : s.te.phase = .ending) (hl : s.lineS = false) :
    step s = .next (s.endTick (if s.cfg.slotEndBounded = true ∧ s.dlRemaining < 0 then
      s.base.raiseFault .slotOverlongPulse else s.base)) := by
  rw [step_te hv hr hs (by simp [hp]), teTick, hp]
  dsimp only
  rw [endingTick, if_neg (by simp [hl])]
  split <;> rfl

/-- The wait for the release goes on while the bound has not elapsed, where there is one (R153, R154). -/
theorem step_end_waits {s : State} (hv : s.cfg.valid = true) (hr : s.inp.rstN = true) (hs : s.st.runsTe = true)
    (hp : s.te.phase = .ending) (hl : s.lineS = false) (hd : s.cfg.slotEndBounded = true → 0 ≤ s.dlRemaining) :
    step s = .next (s.endTick s.base) := by
  rw [step_end_low hv hr hs hp hl, if_neg fun h => absurd h.2 (not_lt.2 (hd h.1))]

theorem step_end_overlong {s : State} (hv : s.cfg.valid = true) (hr : s.inp.rstN = true) (hs : s.st.runsTe = true)
    (hp : s.te.phase = .ending) (hl : s.lineS = false) (hb : s.cfg.slotEndBounded = true) (hd : s.dlRemaining < 0) :
    step s = .next (s.endTick (s.base.raiseFault .slotOverlongPulse)) := by
  rw [step_end_low hv hr hs hp hl, if_pos ⟨hb, hd⟩]

/-- The parameters of a slot against the bound on its low, and the bound against the deadline of a reset (R12). -/
theorem slot_bounds_of_valid {c : Config} (h : c.valid = true) :
    1 ≤ c.tSample ∧ c.tSample < c.tSlotLowMax ∧ 1 ≤ c.tW0Low ∧ c.tW0Low < c.tSlotLowMax ∧
      c.tSlotLowMax < c.tResetDeadline := by
  obtain ⟨⟨hs, hs'⟩, ⟨hw, hw'⟩, _, _, _, hmax, _⟩ := (valid_iff_constraints c).1 h
  omega

/-- Settles O30: by the bound, `T_SLOT_LOW_MAX` < `T_RESET_DEADLINE` making the shortened deadline exact. -/
theorem endPhaseAtLowLine : Obligations.EndPhaseAtLowLine := by
  intro s hv hr hs hp hl
  refine ⟨fun hb => ?_, fun _ hd => ?_, fun hb hd => ?_⟩
  · exact step_end_waits hv hr hs hp hl fun hb' => by simp [hb] at hb'
  · exact step_end_waits hv hr hs hp hl fun _ => hd
  · obtain ⟨_, _, _, _, hmax⟩ := slot_bounds_of_valid hv
    have hdeadline : ((s.cfg.tResetDeadline - s.cfg.tSlotLowMax - 1 : Nat) : Int) - 1 =
        (s.cfg.tResetDeadline : Int) - s.cfg.tSlotLowMax - 2 := by omega
    rw [step_end_overlong hv hr hs hp hl hb hd, raiseFault_running (by simp [hp])]
    simp [State.recover, State.recoverToMeasure, State.enterMeasure, State.dlStart, State.abortedRsp, FaultKind.code,
      hdeadline]

/-! ### The line in START and in a slot -/

theorem lineS_of_released {s : State} (hlat : s.cfg.inLatency = 0) (hd : s.owDrive = false) :
    s.lineS = !s.inp.extLow := by
  simp [State.lineS, hlat, State.line, hd]

/-- While the transfer engine runs, only ACT of a sent 0 drives the line (R43). -/
theorem owDrive_of_runsTe {s : State} (hs : s.st.runsTe = true) :
    s.owDrive = (decide (s.te.phase = .act) && decide (s.te.dir = .send) && !s.te.cur) := by
  cases hst : s.st <;> simp [hst, EngineState.runsTe] at hs <;> simp [State.owDrive, hst]

theorem LowFor.inp {s v : State} {w n k : Nat} (hlow : LowFor s w n) (h : After s k v) (hk : k ≤ n) :
    v.inp.rstN = true ∧ v.inp.extLow = decide (k < w) := by
  rw [State.inp, after_inputAt h]
  exact hlow k hk

/-! ### A slot across its ticks -/

/-- The ticks of ACT in the slot that `te` has set up (R151): none when it sends a 1. -/
def actTicks (cfg : Config) (te : TransferEngine) : Nat :=
  match te.dir, te.cur with
  | .recv, _ => cfg.tSample
  | .send, false => cfg.tW0Low
  | .send, true => 0

/-- The transfer engine `k` ticks after the falling edge of the slot that `te` has set up, the low lasting `w` ticks. -/
def slotTe (cfg : Config) (te : TransferEngine) (w k : Nat) : TransferEngine :=
  if k ≤ actTicks cfg te then { te with phase := .act }
  else { te with phase := .ending, d := if te.dir = .recv then decide (w ≤ cfg.tSample) else te.d }

theorem actTicks_recv {cfg : Config} {te : TransferEngine} (h : te.dir = .recv) : actTicks cfg te = cfg.tSample := by
  simp [actTicks, h]

theorem actTicks_send {cfg : Config} {te : TransferEngine} (h : te.dir = .send) :
    actTicks cfg te = if te.cur then 0 else cfg.tW0Low := by
  cases hc : te.cur <;> simp [actTicks, h, hc]

theorem actTicks_lt {cfg : Config} (hv : cfg.valid = true) (te : TransferEngine) :
    actTicks cfg te < cfg.tSlotLowMax := by
  obtain ⟨_, hsample, _, hw0, _⟩ := slot_bounds_of_valid hv
  unfold actTicks
  split <;> omega

theorem slotTe_act {cfg : Config} {te : TransferEngine} {k : Nat} (hk : k ≤ actTicks cfg te) (w : Nat) :
    slotTe cfg te w k = { te with phase := .act } := if_pos hk

theorem slotTe_end {cfg : Config} {te : TransferEngine} {k : Nat} (hk : actTicks cfg te < k) (w : Nat) :
    slotTe cfg te w k =
      { te with phase := .ending, d := if te.dir = .recv then decide (w ≤ cfg.tSample) else te.d } :=
  if_neg (not_le.2 hk)

@[simp] theorem slotTe_phase (cfg : Config) (te : TransferEngine) (w k : Nat) :
    (slotTe cfg te w k).phase = if k ≤ actTicks cfg te then .act else .ending := by
  unfold slotTe
  split <;> rfl

@[simp] theorem slotTe_dir (cfg : Config) (te : TransferEngine) (w k : Nat) : (slotTe cfg te w k).dir = te.dir := by
  unfold slotTe
  split <;> rfl

@[simp] theorem slotTe_cur (cfg : Config) (te : TransferEngine) (w k : Nat) : (slotTe cfg te w k).cur = te.cur := by
  unfold slotTe
  split <;> rfl

@[simp] theorem slotTe_client (cfg : Config) (te : TransferEngine) (w k : Nat) :
    (slotTe cfg te w k).client = te.client := by
  unfold slotTe
  split <;> rfl

/-- `v` is in the slot that `s` awaited, `k` ticks after its falling edge, the low lasting `w` ticks. -/
structure InSlot (s : State) (w k : Nat) (v : State) : Prop where
  cfg : v.cfg = s.cfg
  st : v.st = s.st
  faultCode : v.faultCode = s.faultCode
  te : v.te = slotTe s.cfg s.te w k
  dly : k ≤ actTicks s.cfg s.te → v.dly = actTicks s.cfg s.te + 1 - k
  dl : s.cfg.slotEndBounded = true → v.dl = ⟨(s.cfg.tSlotLowMax : Int) - k, true⟩

theorem dlCount_of_nonneg {cfg : Config} {c : Int} (hc : 0 ≤ c) : dlCount cfg ⟨c, true⟩ = ⟨c - 1, true⟩ := by
  have hmin : cfg.dlMin < 0 := by
    have hpos : 0 < 2 ^ (cfg.dlWidth - 1) := Nat.two_pow_pos _
    rw [Config.dlMin]
    omega
  rw [dlCount_of_armed (by omega), max_eq_right (by omega)]

namespace InSlot

variable {s v : State} {w k : Nat}

theorem running (h : InSlot s w k v) : v.te.phase ≠ .idle := by
  rw [h.te, slotTe_phase]
  split <;> simp

/-- The slot drives the line exactly in the ACT of a sent 0 (R43, R152). -/
theorem owDrive (h : InSlot s w k v) (hs : s.st.runsTe = true) :
    v.owDrive = (decide (k ≤ actTicks s.cfg s.te) && decide (s.te.dir = .send) && !s.te.cur) := by
  rw [owDrive_of_runsTe (by rwa [h.st]), h.te]
  by_cases hk : k ≤ actTicks s.cfg s.te <;> simp [hk]

/-- Where the slot does not drive the line, it sees the master's low. -/
theorem lineS (h : InSlot s w k v) (hs : s.st.runsTe = true) (hlat : s.cfg.inLatency = 0)
    (hl : v.inp.extLow = decide (k < w)) (hk : actTicks s.cfg s.te < k ∨ s.te.dir = .recv) :
    v.lineS = decide (w ≤ k) := by
  have hdrive : v.owDrive = false := by
    rw [h.owDrive hs]
    obtain hk | hdir := hk
    · simp [not_le.2 hk]
    · simp [hdir]
  rw [lineS_of_released (by rwa [h.cfg]) hdrive, hl]
  simp [← decide_not]

theorem dlRemaining (h : InSlot s w k v) (hb : s.cfg.slotEndBounded = true) :
    v.dlRemaining = (s.cfg.tSlotLowMax : Int) - k := by
  simp [State.dlRemaining, h.dl hb]

theorem dl_succ (h : InSlot s w k v) (hk : s.cfg.slotEndBounded = true → k ≤ s.cfg.tSlotLowMax)
    (hb : s.cfg.slotEndBounded = true) : dlCount v.cfg v.dl = ⟨(s.cfg.tSlotLowMax : Int) - (k + 1 : Nat), true⟩ := by
  have hk := hk hb
  rw [h.dl hb, dlCount_of_nonneg (by omega)]
  congr 1
  omega

/-- The tick of the falling edge (R151). -/
theorem one {s : State} (hv : s.cfg.valid = true) (w : Nat) : InSlot s w 1 (s.endTick (slotStart s.base)) := by
  obtain ⟨hsample, _, hw0, _⟩ := slot_bounds_of_valid hv
  obtain ⟨hdir, e⟩ | ⟨hdir, hcur, e⟩ | ⟨hdir, hcur, e⟩ := slotStart_base_cases s <;> rw [e]
  · have hact := actTicks_recv (cfg := s.cfg) hdir
    exact ⟨by simp, by simp, by simp, by simp [slotTe_act, hact, hsample], by simp [hact],
      fun hb => by simp [slotBound, hb]⟩
  · have hact : actTicks s.cfg s.te = s.cfg.tW0Low := by simp [actTicks_send hdir, hcur]
    exact ⟨by simp, by simp, by simp, by simp [slotTe_act, hact, hw0], by simp [hact],
      fun hb => by simp [slotBound, hb]⟩
  · have hact : actTicks s.cfg s.te = 0 := by simp [actTicks_send hdir, hcur]
    exact ⟨by simp, by simp, by simp, by simp [slotTe_end, hact, hdir], by simp [hact],
      fun hb => by simp [slotBound, hb]⟩

/-- ACT counts its delay down (R152). -/
theorem act_goesOn (h : InSlot s w k v) (hv : s.cfg.valid = true) (hs : s.st.runsTe = true) (hr : v.inp.rstN = true)
    (hk : k < actTicks s.cfg s.te) (hb : s.cfg.slotEndBounded = true → k ≤ s.cfg.tSlotLowMax) :
    ∃ u, step v = .next u ∧ InSlot s w (k + 1) u := by
  have hp : v.te.phase = .act := by simp [h.te, hk.le]
  have hdly := h.dly hk.le
  have hdl := h.dl_succ hb
  have hstep := step_act (by rwa [h.cfg]) hr (by rwa [h.st]) hp
  rw [delayTick_goesOn (by omega)] at hstep
  exact ⟨_, hstep, by simp [h.cfg], by simp [h.st], by simp [h.faultCode], by simp [h.te, slotTe_act, hk.le, hk],
    fun _ => by simp [hdly]; omega, fun hb' => by simpa using hdl hb'⟩

/-- The last tick of ACT samples the line in a receive slot (R152). -/
theorem act_ends (h : InSlot s w k v) (hv : s.cfg.valid = true) (hlat : s.cfg.inLatency = 0) (hs : s.st.runsTe = true)
    (hr : v.inp.rstN = true) (hl : v.inp.extLow = decide (k < w)) (hk : k = actTicks s.cfg s.te)
    (hb : s.cfg.slotEndBounded = true → k ≤ s.cfg.tSlotLowMax) : ∃ u, step v = .next u ∧ InSlot s w (k + 1) u := by
  have hp : v.te.phase = .act := by simp [h.te, hk]
  have hdly := h.dly hk.le
  have hdl := h.dl_succ hb
  have hte : (actEnd v v.base).te = slotTe s.cfg s.te w (k + 1) := by
    rw [slotTe_end (by omega)]
    cases hdir : s.te.dir with
    | recv =>
      rw [actEnd_recv (by simp [h.te, hdir]), h.lineS hs hlat hl (.inr hdir), hk, actTicks_recv hdir]
      simp [h.te, slotTe_act, hk, hdir]
    | send =>
      rw [actEnd_send (by simp [h.te, hdir])]
      simp [h.te, slotTe_act, hk, hdir]
  have hstep := step_act (by rwa [h.cfg]) hr (by rwa [h.st]) hp
  rw [delayTick_ends (by omega)] at hstep
  exact ⟨_, hstep, by simp [actEnd, h.cfg], by simp [actEnd, h.st], by simp [actEnd, h.faultCode],
    by rw [State.endTick_te, hte], fun hk' => by omega, fun hb' => by simpa [actEnd] using hdl hb'⟩

/-- END waits for the master's release (R153, R154). -/
theorem end_waits (h : InSlot s w k v) (hv : s.cfg.valid = true) (hlat : s.cfg.inLatency = 0) (hs : s.st.runsTe = true)
    (hr : v.inp.rstN = true) (hl : v.inp.extLow = decide (k < w)) (hk : actTicks s.cfg s.te < k) (hkw : k < w)
    (hb : s.cfg.slotEndBounded = true → k ≤ s.cfg.tSlotLowMax) : ∃ u, step v = .next u ∧ InSlot s w (k + 1) u := by
  have hp : v.te.phase = .ending := by simp [h.te, hk]
  have hdl := h.dl_succ hb
  have hlow : v.lineS = false := by simp [h.lineS hs hlat hl (.inl hk), hkw]
  have hbound : v.cfg.slotEndBounded = true → 0 ≤ v.dlRemaining := fun hb' => by
    rw [h.cfg] at hb'
    have hk' := hb hb'
    rw [h.dlRemaining hb']
    omega
  have hstep := step_end_waits (by rwa [h.cfg]) hr (by rwa [h.st]) hp hlow hbound
  exact ⟨_, hstep, by simp [h.cfg], by simp [h.st], by simp [h.faultCode],
    by simp [h.te, slotTe_end, hk, hk.trans k.lt_add_one], fun hk' => by omega, fun hb' => by simpa using hdl hb'⟩

/-- A later tick, before the slot completes or its bound has elapsed. -/
theorem next (h : InSlot s w k v) (hv : s.cfg.valid = true) (hlat : s.cfg.inLatency = 0) (hs : s.st.runsTe = true)
    (hr : v.inp.rstN = true) (hl : v.inp.extLow = decide (k < w)) (hk : k < max (actTicks s.cfg s.te + 1) w)
    (hb : s.cfg.slotEndBounded = true → k ≤ s.cfg.tSlotLowMax) : ∃ u, step v = .next u ∧ InSlot s w (k + 1) u := by
  obtain hlt | heq | hgt := lt_trichotomy k (actTicks s.cfg s.te)
  · exact h.act_goesOn hv hs hr hlt hb
  · exact h.act_ends hv hlat hs hr hl heq hb
  · exact h.end_waits hv hlat hs hr hl hgt (by omega) hb

end InSlot

/-! ### A slot from its falling edge to its end -/

/-- With the line high before it, the master's first low tick is the falling edge of a slot in START (R17, R151). -/
theorem edgeFall_of_low {s : State} (hlat : s.cfg.inLatency = 0) (hs : s.st.runsTe = true) (hp : s.te.phase = .start)
    (hprev : s.prevS = true) (hl : s.inp.extLow = true) : s.edgeFall = true := by
  have hdrive : s.owDrive = false := by simp [owDrive_of_runsTe hs, hp]
  simp [State.edgeFall, lineS_of_released hlat hdrive, hl, hprev]

/-- From the falling edge on, the slot runs until it completes or its bound has elapsed. -/
theorem after_edge {s : State} {w n k : Nat} (h : Inv s) (hlat : s.cfg.inLatency = 0) (hp : s.te.phase = .start)
    (hprev : s.prevS = true) (hw : 1 ≤ w) (hlow : LowFor s w n) (hk1 : 1 ≤ k) (hkn : k ≤ n + 1)
    (hk : k ≤ max (actTicks s.cfg s.te + 1) w) (hb : s.cfg.slotEndBounded = true → k ≤ s.cfg.tSlotLowMax + 1) :
    ∃ v, After s k v ∧ InSlot s w k v := by
  have hs : s.st.runsTe = true := h.teRuns (by simp [hp])
  induction k, hk1 using Nat.le_induction with
  | base =>
    obtain ⟨hr, hl⟩ := hlow.inp (after_zero.2 rfl) n.zero_le
    have hedge := edgeFall_of_low hlat hs hp hprev (hl.trans (decide_eq_true hw))
    have hstep := step_start h.valid hr hs hp
    rw [startTick_edge hedge] at hstep
    exact ⟨_, after_succ.2 ⟨s, after_zero.2 rfl, hstep⟩, .one h.valid w⟩
  | succ k hk1 ih =>
    obtain ⟨v, hav, hin⟩ := ih (by omega) (by omega) fun hb' => by have := hb hb'; omega
    obtain ⟨hr, hl⟩ := hlow.inp hav (by omega)
    obtain ⟨u, hstep, hin'⟩ := hin.next h.valid hlat hs hr hl (by omega) fun hb' => by have := hb hb'; omega
    exact ⟨u, after_succ.2 ⟨v, hav, hstep⟩, hin'⟩

/-- A slot whose low stays within the bound runs to the first high tick after its ACT. -/
theorem after_slot {s : State} {w k : Nat} (h : Inv s) (hlat : s.cfg.inLatency = 0) (hp : s.te.phase = .start)
    (hprev : s.prevS = true) (hw : 1 ≤ w) (hb : s.cfg.slotEndBounded = true → w ≤ s.cfg.tSlotLowMax + 1)
    (hlow : LowFor s w (max (actTicks s.cfg s.te + 1) w)) (hk1 : 1 ≤ k)
    (hk : k ≤ max (actTicks s.cfg s.te + 1) w) : ∃ v, After s k v ∧ InSlot s w k v :=
  after_edge h hlat hp hprev hw hlow hk1 (by omega) hk fun hb' => by
    have hact := actTicks_lt h.valid s.te
    have hwb := hb hb'
    omega

/-- There the slot is in END at a high line, where it completes (R153). -/
theorem after_slot_completes {s : State} {w : Nat} (h : Inv s) (hlat : s.cfg.inLatency = 0) (hp : s.te.phase = .start)
    (hprev : s.prevS = true) (hw : 1 ≤ w) (hb : s.cfg.slotEndBounded = true → w ≤ s.cfg.tSlotLowMax + 1)
    (hlow : LowFor s w (max (actTicks s.cfg s.te + 1) w)) :
    ∃ u, After s (max (actTicks s.cfg s.te + 1) w) u ∧ u.st = s.st ∧ u.lineS = true ∧ u.faultCode = s.faultCode ∧
      u.te = { s.te with
        phase := .ending, d := if s.te.dir = .recv then decide (w ≤ s.cfg.tSample) else s.te.d } := by
  obtain ⟨u, hau, hin⟩ := after_slot h hlat hp hprev hw hb hlow (by omega) le_rfl
  have hl := (hlow.inp hau le_rfl).2
  have hend : actTicks s.cfg s.te < max (actTicks s.cfg s.te + 1) w := by omega
  refine ⟨u, hau, hin.st, ?_, hin.faultCode, hin.te.trans (slotTe_end hend w)⟩
  simp [hin.lineS (h.teRuns (by simp [hp])) hlat hl (.inl hend)]

/-- Settles O35: the slot of direction RECV, whose ACT is `T_SAMPLE` ticks long. -/
theorem receiveSlotRun : Obligations.ReceiveSlotRun := by
  intro s w h hlat hp hdir hprev hw hb hlow
  have hs : s.st.runsTe = true := h.teRuns (by simp [hp])
  have hact := actTicks_recv (cfg := s.cfg) hdir
  rw [← hact] at hlow ⊢
  constructor
  · simpa [hdir, hact] using after_slot_completes h hlat hp hprev hw hb hlow
  · intro k hk1 hk
    obtain ⟨v, hav, hin⟩ := after_slot h hlat hp hprev hw hb hlow hk1 hk
    exact ⟨v, hav, by simp [hin.owDrive hs, hdir], by simp [hin.te]⟩

/-- Settles O36: the slot of direction SEND, whose ACT is `T_W0LOW` ticks long for a 0 and left out for a 1. -/
theorem sendSlotRuns : Obligations.SendSlotRuns := by
  intro s w h hlat hp hdir hprev hw hb last hlow
  have hs : s.st.runsTe = true := h.teRuns (by simp [hp])
  have hact := actTicks_send (cfg := s.cfg) hdir
  have hlast : last = max (actTicks s.cfg s.te + 1) w := by
    rw [hact]
    cases hc : s.te.cur <;> simp [last, hc, hw]
  rw [hlast] at hlow ⊢
  constructor
  · simpa [hdir] using after_slot_completes h hlat hp hprev hw hb hlow
  · intro k hk1 hk
    obtain ⟨v, hav, hin⟩ := after_slot h hlat hp hprev hw hb hlow hk1 hk
    refine ⟨v, hav, ?_⟩
    rw [hin.owDrive hs, hact, hdir]
    cases hc : s.te.cur <;> simp

/-- A low that outlasts the bound leaves the slot in END with its bound elapsed (R154). -/
theorem after_slot_overlong {s : State} {w : Nat} (h : Inv s) (hlat : s.cfg.inLatency = 0) (hp : s.te.phase = .start)
    (hprev : s.prevS = true) (hb : s.cfg.slotEndBounded = true) (hw : s.cfg.tSlotLowMax + 2 ≤ w)
    (hlow : LowFor s w (s.cfg.tSlotLowMax + 1)) :
    ∃ v, InSlot s w (s.cfg.tSlotLowMax + 1) v ∧
      After s (s.cfg.tSlotLowMax + 2) (v.endTick (v.base.raiseFault .slotOverlongPulse)) := by
  have hs : s.st.runsTe = true := h.teRuns (by simp [hp])
  have hact := actTicks_lt h.valid s.te
  obtain ⟨v, hav, hin⟩ := after_edge h hlat hp hprev (by omega) hlow (k := s.cfg.tSlotLowMax + 1) (by omega) (by omega)
    (by omega) fun _ => le_rfl
  obtain ⟨hr, hl⟩ := hlow.inp hav le_rfl
  have hphase : v.te.phase = .ending := by
    simp only [hin.te, slotTe_phase, if_neg (by omega : ¬s.cfg.tSlotLowMax + 1 ≤ actTicks s.cfg s.te)]
  have hline : v.lineS = false := by
    rw [hin.lineS hs hlat hl (.inl (by omega)), decide_eq_false (by omega)]
  have hstep := step_end_overlong (by rw [hin.cfg, h.valid]) hr (by rwa [hin.st]) hphase hline (by rwa [hin.cfg])
    (by rw [hin.dlRemaining hb]; omega)
  exact ⟨v, hin, after_succ.2 ⟨v, hav, hstep⟩⟩

/-- Settles O37: the shortened deadline of the recovery counts the width from the falling edge. -/
theorem overlongSlotMeasured : Obligations.OverlongSlotMeasured := by
  intro s w h hlat hp hprev hb hw hlow
  obtain ⟨v, hin, hrun⟩ := after_slot_overlong h hlat hp hprev hb hw hlow
  obtain ⟨_, _, _, _, hmax⟩ := slot_bounds_of_valid h.valid
  have hwidth : (s.cfg.tResetDeadline : Int) - (((s.cfg.tResetDeadline - s.cfg.tSlotLowMax - 1 : Nat) : Int) - 1) =
      (s.cfg.tSlotLowMax : Int) + 2 := by omega
  rw [raiseFault_running (by simpa using hin.running)] at hrun
  refine ⟨_, hrun, ?_⟩
  simp +contextual [State.recover, State.resetWidth, State.dlRemaining, FaultKind.code, hin.cfg, hin.te, hwidth]

/-! ### START on a silent bus -/

/-- `v` is in START of the slot that `s` awaits, `k` ticks further. -/
structure AwaitsSlot (s : State) (k : Nat) (v : State) : Prop where
  cfg : v.cfg = s.cfg
  st : v.st = s.st
  te : v.te = s.te
  faultCode : v.faultCode = s.faultCode
  intClass : v.intClass = s.intClass
  dl : v.dl = ⟨(s.cfg.tSlotWait : Int) - 1 - k, true⟩

theorem BusQuiet.inp {s v : State} {n k : Nat} (hq : BusQuiet s n) (h : After s k v) (hk : k < n) :
    v.inp.rstN = true ∧ v.inp.extLow = false ∧ v.inp.condValid = false := by
  rw [State.inp, after_inputAt h]
  exact hq k hk

namespace AwaitsSlot

variable {s v : State} {k : Nat}

theorem dlRemaining (h : AwaitsSlot s k v) : v.dlRemaining = (s.cfg.tSlotWait : Int) - 1 - k := by
  simp [State.dlRemaining, h.dl]

theorem edgeFall (h : AwaitsSlot s k v) (hlat : s.cfg.inLatency = 0) (hs : s.st.runsTe = true)
    (hp : s.te.phase = .start) (hl : v.inp.extLow = false) : v.edgeFall = false := by
  have hdrive : v.owDrive = false := by
    rw [owDrive_of_runsTe (by rwa [h.st]), h.te]
    simp [hp]
  simp [State.edgeFall, lineS_of_released (by rwa [h.cfg]) hdrive, hl]

theorem class2Pending (h : AwaitsSlot s k v) (hc : s.intClass ≠ 2) : v.class2Pending = false := by
  rw [Bool.eq_false_iff, Ne, class2Pending_iff, h.intClass]
  exact fun hpulse => hc hpulse.2

/-- One tick of the wait (R157). -/
theorem next (h : AwaitsSlot s k v) (hv : s.cfg.valid = true) (hlat : s.cfg.inLatency = 0) (hs : s.st.runsTe = true)
    (hp : s.te.phase = .start) (hc : s.intClass ≠ 2) (hr : v.inp.rstN = true) (hl : v.inp.extLow = false)
    (hcond : v.inp.condValid = false) (hk : k < s.cfg.tSlotWait) : ∃ u, step v = .next u ∧ AwaitsSlot s (k + 1) u := by
  have hstep := step_start (by rwa [h.cfg]) hr (by rwa [h.st]) (by rwa [h.te])
  rw [startTick_waits (h.edgeFall hlat hs hp hl) (h.class2Pending hc) (by rw [h.dlRemaining]; omega)] at hstep
  refine ⟨_, hstep, by simp [h.cfg], by simp [h.st], by simp [h.te], by simp [h.faultCode],
    by simp [hcond, h.intClass], ?_⟩
  rw [State.endTick_dl, State.base_dl, h.dl, dlCount_of_nonneg (by omega)]
  congr 1
  omega

end AwaitsSlot

theorem after_start {s : State} {k : Nat} (h : Inv s) (hlat : s.cfg.inLatency = 0) (hp : s.te.phase = .start)
    (hdl : s.dl = slotWait s.cfg) (hc : s.intClass ≠ 2) (hq : BusQuiet s (s.cfg.tSlotWait + 1))
    (hk : k ≤ s.cfg.tSlotWait) : ∃ v, After s k v ∧ AwaitsSlot s k v := by
  induction k with
  | zero => exact ⟨s, after_zero.2 rfl, rfl, rfl, rfl, rfl, rfl, by simp [hdl, slotWait]⟩
  | succ k ih =>
    obtain ⟨v, hav, haw⟩ := ih (by omega)
    obtain ⟨hr, hl, hcond⟩ := hq.inp hav (by omega)
    obtain ⟨u, hstep, haw'⟩ := haw.next h.valid hlat (h.teRuns (by simp [hp])) hp hc hr hl hcond hk
    exact ⟨u, after_succ.2 ⟨v, hav, hstep⟩, haw'⟩

/-- Settles O38: the wait keeps START until its deadline has elapsed, which raises the fault. -/
theorem slotWaitBound : Obligations.SlotWaitBound := by
  intro s h hlat hp hdl hc hq
  constructor
  · intro k hk
    obtain ⟨v, hav, haw⟩ := after_start h hlat hp hdl hc hq hk
    exact ⟨v, hav, haw.st, haw.te, haw.faultCode⟩
  · have hs : s.st.runsTe = true := h.teRuns (by simp [hp])
    obtain ⟨v, hav, haw⟩ := after_start h hlat hp hdl hc hq le_rfl
    obtain ⟨hr, hl, _⟩ := hq.inp hav (by omega)
    have hstep := step_start (by rw [haw.cfg, h.valid]) hr (by rwa [haw.st]) (by rwa [haw.te])
    rw [startTick_timeout (haw.edgeFall hlat hs hp hl) (haw.class2Pending hc) (by rw [haw.dlRemaining]; omega),
      raiseFault_running (by simp [haw.te, hp])] at hstep
    refine ⟨_, after_succ.2 ⟨v, hav, hstep⟩, ?_⟩
    simp +contextual [State.recover, FaultKind.code, haw.te]

end Sys2Proof.Machine

/-! PROOFS. The statements of 42_bit_byte.md: how an operation goes on with its next slot, a search across its triplets,
the tick at which a ROM command acts on a completed transfer, and how a fault stops one. -/

namespace Sys2Proof.Machine

/-! ### A slot that does not end its operation -/

/-- START of the slot that `te` has set up (R151). -/
def State.startSlot (te : TransferEngine) (n : State) : State :=
  { n with te := { te with phase := .start }, intArmed := true, dl := slotWait n.cfg }

theorem nextSlot_eq_startSlot (cnt : BitVec 3) (tri : BitVec 2) (n : State) :
    n.nextSlot cnt tri = n.startSlot (setupSlot { n.te with cnt := cnt, tri := tri }) := rfl

/-- The three slots of a search triplet: the bit, its complement, the master's direction (R170, R177). -/
theorem setupSlot_searchFirst {te : TransferEngine} (hop : te.op = .searchBit ∨ te.op = .searchByte)
    (htri : te.tri = 0) : setupSlot te = { te with dir := .send, cur := bitOf te.sr te.cnt } := by
  obtain hop | hop := hop <;> simp [setupSlot, slotBit, hop, htri]

theorem setupSlot_searchSecond {te : TransferEngine} (hop : te.op = .searchBit ∨ te.op = .searchByte)
    (htri : te.tri = 1) : setupSlot te = { te with dir := .send, cur := !bitOf te.sr te.cnt } := by
  obtain hop | hop := hop <;> simp [setupSlot, slotBit, hop, htri]

theorem setupSlot_searchThird {te : TransferEngine} (hop : te.op = .searchBit ∨ te.op = .searchByte)
    (htri : te.tri = 2) : setupSlot te = { te with dir := .recv } := by
  obtain hop | hop := hop <;> simp [setupSlot, slotBit, hop, htri]

section
variable {n : State}

theorem completeSlot_recvByte_goesOn (hop : n.te.op = .recvByte) (hcnt : n.te.cnt ≠ 7) :
    completeSlot n = .more (n.startSlot { n.te with
      sr := setBitOf n.te.sr n.te.cnt n.te.d, cnt := n.te.cnt + 1, dir := .recv }) := by
  rw [completeSlot_recvByte hop]
  dsimp only
  rw [if_neg hcnt, nextSlot_eq_startSlot, setupSlot_recvByte]
  · rfl
  · exact hop

theorem completeSlot_sendByte_goesOn (hop : n.te.op = .sendByte) (hcnt : n.te.cnt ≠ 7) :
    completeSlot n = .more (n.startSlot { n.te with
      cnt := n.te.cnt + 1, dir := .send, cur := bitOf n.te.sr (n.te.cnt + 1) }) := by
  rw [completeSlot_sendByte hop, if_neg hcnt, nextSlot_eq_startSlot, setupSlot_sendByte]
  exact hop

/-- The first two slots of a triplet go on whatever was on the line (R179). -/
theorem completeSlot_search_sent (hop : n.te.op = .searchBit ∨ n.te.op = .searchByte) (htri : n.te.tri.toNat < 2) :
    completeSlot n = .more (n.startSlot (setupSlot { n.te with tri := n.te.tri + 1 })) := by
  rw [completeSlot_search hop, completeSearch, if_pos htri, nextSlot_eq_startSlot]

theorem completeSlot_searchFirst (hop : n.te.op = .searchBit ∨ n.te.op = .searchByte) (htri : n.te.tri = 0) :
    completeSlot n = .more (n.startSlot { n.te with tri := 1, dir := .send, cur := !bitOf n.te.sr n.te.cnt }) := by
  rw [completeSlot_search_sent hop (by simp [htri]), htri, setupSlot_searchSecond]
  · rfl
  · exact hop
  · rfl

theorem completeSlot_searchSecond (hop : n.te.op = .searchBit ∨ n.te.op = .searchByte) (htri : n.te.tri = 1) :
    completeSlot n = .more (n.startSlot { n.te with tri := 2, dir := .recv }) := by
  rw [completeSlot_search_sent hop (by simp [htri]), htri, setupSlot_searchThird]
  · rfl
  · exact hop
  · rfl

/-- The next triplet follows when the master goes this device's way (R178). -/
theorem completeSlot_searchByte_goesOn (hop : n.te.op = .searchByte) (htri : n.te.tri = 2) (hcnt : n.te.cnt ≠ 7)
    (hd : n.te.d = bitOf n.te.sr n.te.cnt) :
    completeSlot n = .more (n.startSlot { n.te with
      cnt := n.te.cnt + 1, tri := 0, dir := .send, cur := bitOf n.te.sr (n.te.cnt + 1) }) := by
  have hlast : ¬(n.te.op = .searchBit ∨ n.te.cnt = 7) := not_or.2 ⟨by simp [hop], hcnt⟩
  rw [completeSlot_search (.inr hop), completeSearch, if_neg (by simp [htri]), if_neg (not_not.2 hd), if_neg hlast,
    nextSlot_eq_startSlot, setupSlot_searchFirst]
  · exact .inr hop
  · rfl

end

/-- A slot that does not end its operation is followed by START of the next one, whoever the client is (R179). -/
theorem step_startsSlot {s : State} (hv : s.cfg.valid = true) (hr : s.inp.rstN = true) (hs : s.st.runsTe = true)
    (hp : s.te.phase = .ending) (hl : s.lineS = true) {te : TransferEngine}
    (h : completeSlot s.base = .more (s.base.startSlot te)) :
    step s = .next (s.endTick { s.base with
      te := { te with phase := .start }, intArmed := true, dl := slotWait s.cfg }) := by
  have hte : teTick s s.base = .next (s.base.startSlot te) := by simp [teTick, endingTick, hp, hl, h, deliver]
  rw [step_te hv hr hs (by simp [hp]), hte, andThen, ← s.base_cfg]
  rfl

/-- Settles O32: each operation's continuation sets up its own next slot. -/
theorem operationsGoOn : Obligations.OperationsGoOn := by
  intro s hv hr hs hp hl goesOn
  have hgoes {te : TransferEngine} (h : completeSlot s.base = .more (s.base.startSlot te)) :
      goesOn { te with phase := .start } := step_startsSlot hv hr hs hp hl h
  rw [← s.base_te]
  exact ⟨fun hop hcnt => hgoes (completeSlot_recvByte_goesOn hop hcnt),
    fun hop hcnt => hgoes (completeSlot_sendByte_goesOn hop hcnt),
    fun hop htri => hgoes (completeSlot_searchFirst hop htri),
    fun hop htri => hgoes (completeSlot_searchSecond hop htri),
    fun hop htri hcnt hd => hgoes (completeSlot_searchByte_goesOn hop htri hcnt hd)⟩

/-! ### SEARCH_BYTE across its slots -/

/-- Slot `tri` of the triplet of bit k, in a SEARCH_BYTE of `v` (R177, R178). -/
structure SearchesBit (v : Byte) (k : Nat) (tri : BitVec 2) (n : State) : Prop where
  op : n.te.op = .searchByte
  cnt : n.te.cnt.toNat = k
  slot : n.te.tri = tri
  sr : n.te.sr = v
  sends : slotSends n = slotBit .searchByte n.te.cnt tri v

theorem dir_of_slotSends_none {n : State} (h : slotSends n = none) : n.te.dir = .recv := by
  cases hdir : n.te.dir with
  | recv => rfl
  | send => simp [slotSends, hdir] at h

namespace SearchesBit

variable {v : Byte} {k : Nat} {tri : BitVec 2} {n : State}

theorem bit (h : SearchesBit v k tri n) : bitOf n.te.sr n.te.cnt = v.getLsbD k := by rw [h.sr, bitOf, h.cnt]

theorem sendsFirst (h : SearchesBit v k 0 n) : slotSends n = some (v.getLsbD k) := by
  simp [h.sends, slotBit, bitOf, h.cnt]

theorem sendsSecond (h : SearchesBit v k 1 n) : slotSends n = some (!v.getLsbD k) := by
  simp [h.sends, slotBit, bitOf, h.cnt]

theorem sendsThird (h : SearchesBit v k 2 n) : slotSends n = none := by
  simp [h.sends, slotBit]

theorem sampleBit (h : SearchesBit v k tri n) (b : Bool) : SearchesBit v k tri (n.sampleBit b) :=
  ⟨h.op, h.cnt, h.slot, h.sr, h.sends⟩

theorem sampleBit_d (h : SearchesBit v k 2 n) (b : Bool) : (n.sampleBit b).te.d = b :=
  Machine.sampleBit_d (dir_of_slotSends_none h.sendsThird) b

theorem secondFollows (h : SearchesBit v k 0 n) : ∃ m, completeSlot n = .more m ∧ SearchesBit v k 1 m :=
  ⟨_, completeSlot_searchFirst (.inr h.op) h.slot, h.op, h.cnt, rfl, h.sr, congrArg (fun sr => some (!bitOf sr _)) h.sr⟩

theorem thirdFollows (h : SearchesBit v k 1 n) : ∃ m, completeSlot n = .more m ∧ SearchesBit v k 2 m :=
  ⟨_, completeSlot_searchSecond (.inr h.op) h.slot, h.op, h.cnt, rfl, h.sr, rfl⟩

/-- The master goes this device's way before the last bit: the next triplet. -/
theorem agrees (h : SearchesBit v k 2 n) (hd : n.te.d = v.getLsbD k) (hk : k < 7) :
    ∃ m, completeSlot n = .more m ∧ SearchesBit v (k + 1) 0 m := by
  have hcnt := ne_seven_of_toNat_lt h.cnt hk
  have hnext : (n.te.cnt + 1).toNat = k + 1 := by rw [toNat_add_one_of_ne_seven hcnt, h.cnt]
  exact ⟨_, completeSlot_searchByte_goesOn h.op h.slot hcnt (hd.trans h.bit.symm), h.op, hnext, rfl, h.sr,
    congrArg (fun sr => some (bitOf sr _)) h.sr⟩

/-- The master goes this device's way at the last bit: the search ends OK. -/
theorem ends (h : SearchesBit v 7 2 n) (hd : n.te.d = v.getLsbD 7) : ∃ m, completeSlot n = .done .ok v m := by
  have hcnt : n.te.cnt = 7 := BitVec.eq_of_toNat_eq h.cnt
  rw [completeSlot_search (.inr h.op), completeSearch, if_neg (by simp [h.slot]),
    if_neg (not_not.2 (hd.trans h.bit.symm)), if_pos (.inr hcnt), if_pos h.op, h.sr]
  exact ⟨_, rfl⟩

/-- The master goes the other way: the search ends with the index of the bit. -/
theorem differs (h : SearchesBit v k 2 n) (hd : n.te.d ≠ v.getLsbD k) :
    ∃ m, completeSlot n = .done .mismatch (zextIndex n.te.cnt) m := by
  rw [completeSlot_search (.inr h.op), completeSearch, if_neg (by simp [h.slot]), if_pos (by rwa [h.bit])]
  exact ⟨_, rfl⟩

/-- The two sending slots of a triplet lead to its receiving one. -/
theorem runSlots_sent (h : SearchesBit v k 0 n) : ∃ m, SearchesBit v k 2 m ∧ ∀ bs,
    runSlots (false :: false :: bs) n =
      (some (v.getLsbD k) :: some (!v.getLsbD k) :: (runSlots bs m).1, (runSlots bs m).2) := by
  obtain ⟨n₁, e₁, h₁⟩ := (h.sampleBit false).secondFollows
  obtain ⟨n₂, e₂, h₂⟩ := (h₁.sampleBit false).thirdFollows
  refine ⟨n₂, h₂, fun bs => ?_⟩
  rw [runSlots_more e₁, runSlots_more e₂, h.sendsFirst, h₁.sendsSecond]

/-- A triplet in which the master goes this device's way, before the last bit. -/
theorem runSlots_agrees (h : SearchesBit v k 0 n) (hk : k < 7) : ∃ m, SearchesBit v (k + 1) 0 m ∧ ∀ bs,
    runSlots (false :: false :: v.getLsbD k :: bs) n =
      (some (v.getLsbD k) :: some (!v.getLsbD k) :: none :: (runSlots bs m).1, (runSlots bs m).2) := by
  obtain ⟨n', h', e⟩ := h.runSlots_sent
  obtain ⟨m, em, hm⟩ := (h'.sampleBit _).agrees (h'.sampleBit_d _) hk
  exact ⟨m, hm, fun bs => by rw [e, runSlots_more em, h'.sendsThird]⟩

theorem runSlots_ends (h : SearchesBit v 7 0 n) (bs : List Bool) : ∃ m,
    runSlots (false :: false :: v.getLsbD 7 :: bs) n =
      ([some (v.getLsbD 7), some (!v.getLsbD 7), none], .done .ok v m) := by
  obtain ⟨n', h', e⟩ := h.runSlots_sent
  obtain ⟨m, em⟩ := (h'.sampleBit _).ends (h'.sampleBit_d _)
  exact ⟨m, by rw [e, runSlots_done em, h'.sendsThird]⟩

theorem runSlots_differs (h : SearchesBit v k 0 n) {b : Bool} (hb : v.getLsbD k ≠ b) (bs : List Bool) : ∃ m,
    runSlots (false :: false :: b :: bs) n =
      ([some (v.getLsbD k), some (!v.getLsbD k), none], .done .mismatch (BitVec.ofNat 8 k) m) := by
  obtain ⟨n', h', e⟩ := h.runSlots_sent
  obtain ⟨m, em⟩ := (h'.sampleBit b).differs (by rw [h'.sampleBit_d]; exact hb.symm)
  have hindex : zextIndex (n'.sampleBit b).te.cnt = BitVec.ofNat 8 k := by
    rw [← (h'.sampleBit b).cnt, zextIndex, BitVec.ofNat_toNat]
  exact ⟨m, by rw [e, runSlots_done em, h'.sendsThird, hindex]⟩

end SearchesBit

theorem teBegin_searchesBit (v : Byte) (c : Client) (n : State) : SearchesBit v 0 0 (n.teBegin .searchByte v c) :=
  ⟨rfl, rfl, rfl, rfl, rfl⟩

/-- What is on the line at the samples of the triplets of the bits `ks` when the master goes the way of `w`. -/
def masterTriplets (w : Byte) (ks : List Nat) : List Bool := ks.flatMap fun k => [false, false, w.getLsbD k]

/-- What the triplets of the bits `ks` of `v` send. -/
def searchTriplets (v : Byte) (ks : List Nat) : List (Option Bool) :=
  ks.flatMap fun k => [some (v.getLsbD k), some (!v.getLsbD k), none]

theorem flatMap_bitsOf {α : Type} (w : Byte) (f : Bool → List α) :
    (bitsOf w).flatMap f = (List.range 8).flatMap fun k => f (w.getLsbD k) := by
  rw [bitsOf, List.flatMap_map]

theorem masterTriplets_append (w : Byte) (ks ls : List Nat) :
    masterTriplets w (ks ++ ls) = masterTriplets w ks ++ masterTriplets w ls := List.flatMap_append

theorem searchTriplets_append (v : Byte) (ks ls : List Nat) :
    searchTriplets v (ks ++ ls) = searchTriplets v ks ++ searchTriplets v ls := List.flatMap_append

theorem masterTriplets_cons (w : Byte) (k : Nat) (ks : List Nat) :
    masterTriplets w (k :: ks) = false :: false :: w.getLsbD k :: masterTriplets w ks := rfl

theorem searchTriplets_cons (v : Byte) (k : Nat) (ks : List Nat) :
    searchTriplets v (k :: ks) = some (v.getLsbD k) :: some (!v.getLsbD k) :: none :: searchTriplets v ks := rfl

theorem searchTriplets_length (v : Byte) (ks : List Nat) : (searchTriplets v ks).length = 3 * ks.length := by
  simp [searchTriplets, List.length_flatMap, Nat.mul_comm]

theorem range_eight_split {k : Nat} (hk : k < 8) : ∃ ks, List.range 8 = List.range k ++ k :: ks := by
  obtain ⟨d, hd⟩ := Nat.exists_eq_add_of_lt hk
  rw [hd, Nat.add_assoc, List.range_add, List.range_succ_eq_map]
  exact ⟨_, rfl⟩

/-- While the master goes this device's way, the search goes through the triplets bit by bit. -/
theorem runSlots_search_agrees {v w : Byte} {n : State} (h : SearchesBit v 0 0 n) (k : Nat) (hk : k ≤ 7)
    (hvw : ∀ j < k, v.getLsbD j = w.getLsbD j) : ∃ m, SearchesBit v k 0 m ∧ ∀ bs,
      runSlots (masterTriplets w (List.range k) ++ bs) n =
        (searchTriplets v (List.range k) ++ (runSlots bs m).1, (runSlots bs m).2) := by
  induction k with
  | zero => exact ⟨n, h, fun bs => rfl⟩
  | succ k ih =>
    obtain ⟨n', h', e'⟩ := ih (by omega) fun j hj => hvw j (by omega)
    obtain ⟨m, hm, e⟩ := h'.runSlots_agrees (by omega)
    refine ⟨m, hm, fun bs => ?_⟩
    rw [List.range_succ, masterTriplets_append, searchTriplets_append, List.append_assoc, List.append_assoc, e',
      masterTriplets_cons, ← hvw k (by omega)]
    simp only [List.cons_append, e, searchTriplets_cons]
    rfl

/-- The master goes this device's way to the end. -/
theorem runSlots_search_ends {v : Byte} {n : State} (h : SearchesBit v 0 0 n) : ∃ m,
    runSlots (masterTriplets v (List.range 8)) n = (searchTriplets v (List.range 8), .done .ok v m) := by
  obtain ⟨n', h', e'⟩ := runSlots_search_agrees h 7 le_rfl fun _ _ => rfl
  obtain ⟨m, e⟩ := h'.runSlots_ends (masterTriplets v [])
  refine ⟨m, ?_⟩
  rw [List.range_succ, masterTriplets_append, searchTriplets_append, e', masterTriplets_cons, e]
  rfl

/-- The master first goes the other way at bit k, whatever it does after that. -/
theorem runSlots_search_differs {v w : Byte} {n : State} (h : SearchesBit v 0 0 n) {k : Nat} (hk : k < 8)
    (hvw : ∀ j < k, v.getLsbD j = w.getLsbD j) (hne : v.getLsbD k ≠ w.getLsbD k) : ∃ m,
    runSlots (masterTriplets w (List.range 8)) n =
      ((searchTriplets v (List.range 8)).take (3 * (k + 1)), .done .mismatch (BitVec.ofNat 8 k) m) := by
  obtain ⟨ks, hks⟩ := range_eight_split hk
  obtain ⟨n', h', e'⟩ := runSlots_search_agrees h k (by omega) hvw
  obtain ⟨m, e⟩ := h'.runSlots_differs hne (masterTriplets w ks)
  have hlen : 3 * (k + 1) = (searchTriplets v (List.range k)).length + 3 := by
    rw [searchTriplets_length, List.length_range, Nat.mul_succ]
  refine ⟨m, ?_⟩
  rw [hks, masterTriplets_append, searchTriplets_append, e', masterTriplets_cons, e, hlen, List.take_length_add_append]
  rfl

/-- Settles O34: the triplets agree up to the first differing bit, or all of them do. -/
theorem searchByteResult : Obligations.SearchByteResult := by
  intro v w client n triplets sends
  have hbegin := teBegin_searchesBit v client n
  have htriplets : triplets = masterTriplets w (List.range 8) := flatMap_bitsOf w _
  have hsends : sends = searchTriplets v (List.range 8) := flatMap_bitsOf v _
  rw [htriplets, hsends]
  refine ⟨fun hvw => hvw ▸ runSlots_search_ends hbegin, fun k hbelow hk => ?_⟩
  have hvw (j : Nat) (hj : j < k.toNat) : v.getLsbD j = w.getLsbD j := by
    simpa [bitOf, Nat.mod_eq_of_lt (hj.trans k.isLt)] using hbelow (BitVec.ofNat 3 j) (by bv_omega)
  have hindex : k.setWidth 8 = BitVec.ofNat 8 k.toNat := (BitVec.ofNat_toNat 8 k).symm
  exact hindex ▸ runSlots_search_differs hbegin k.isLt hvw hk

/-! ### The tick at which a ROM command acts -/

/-- Outside ROM_EXEC the byte just received is the command (R231). -/
theorem finished_commandAt_byte {s : State} (hs : s.st ≠ .romExec) :
    s.finished.commandAt = decodeRomCmd s.cfg s.completedSr := by
  simp [State.commandAt, State.finished, hs]

/-- Settles O8: `State.commandAt` is the command that the byte received or `rom_cmd` spells. -/
theorem stepRunsTheRomCommand : Obligations.StepRunsTheRomCommand := by
  intro s i n hv hr hd hc hi hn
  have hs : s.st = .romCmd ∨ s.st = .romExec := hi.imp And.left And.left
  have hcmd : s.finished.commandAt = i := by
    obtain ⟨hs, hi⟩ | ⟨hs, hi⟩ := hi
    · exact (finished_commandAt_byte (by simp [hs])).trans (Except.ok.inj hi)
    · exact (finished_commandAt hs).trans (Except.ok.inj hi)
  obtain ⟨t, ht⟩ := step_total hv (.inr fun k hk => by simp [hk] at hs)
  obtain ⟨m, hm, rfl⟩ := step_command hr (by obtain hs | hs := hs <;> simp [hs, EngineState.runsTe]) hc hd ht
  rw [hcmd, hn] at hm
  rw [ht, Host.Outcome.next.inj hm]

/-! ### Faults -/

/-- A fault with no transfer in progress stops nothing (R285). -/
theorem raiseFault_idle {n : State} (hp : n.te.phase = .idle) (f : FaultKind) :
    n.raiseFault f = State.recover f { n with faultCode := f.code } := by
  rw [State.raiseFault, State.abortTransfer, if_pos hp]

/-- Settles O46: each fault's recovery acts on the stopped transfer. -/
theorem faultEntry : Obligations.FaultEntry := by
  intro n stopped
  have hraise (f : FaultKind) : n.raiseFault f = State.recover f { stopped with faultCode := f.code } := by
    by_cases hp : n.te.phase = .idle
    · rw [raiseFault_idle hp, show stopped = n from if_pos hp]
    · rw [raiseFault_running hp, show stopped = _ from if_neg hp]
  have hcfg : stopped.cfg = n.cfg := by
    dsimp only [stopped]
    split <;> rfl
  refine ⟨fun f hf => ?_, ?_, ?_⟩
  · rw [hraise]
    obtain rfl | rfl | rfl | rfl := hf <;> rfl
  · rw [hraise, ← hcfg]
    rfl
  · rw [hraise]
    rfl

end Sys2Proof.Machine

/-! PROOFS. The statements of 43_reset_presence.md: the ticks of IDLE and of RESET_MEASURE, a reset low across its ticks,
the presence pulse that answers it, and the ports that a tick does not look at. -/

namespace Sys2Proof.Machine

/-! ### One tick of IDLE -/

theorem step_idle {s : State} (hv : s.cfg.valid = true) (hr : s.inp.rstN = true) (hs : s.st = .idle) :
    step s = .next (s.endTick (idleTick s s.base)) := by
  rw [step_base hv hr (by simp [hs]), engineTick, hs]
  rfl

theorem idleTick_edge {s : State} (hb : s.cfg.hasSleep = false) (he : s.edgeFall = true) (n : State) :
    idleTick s n = n.startMeasure n.cfg.tResetDeadline := by
  simp [idleTick, idleAwake, hb, he]

theorem idleTick_wakeLow {s : State} (hb : s.cfg.hasSleep = true) (hw : s.inp.wake = true) (hl : s.lineS = false)
    (n : State) : idleTick s n = n.startMeasure (n.cfg.tResetDeadline - n.cfg.tWakeComp) := by
  simp [idleTick, idleAsleep, hb, hw, hl]

theorem idleTick_wakeHigh {s : State} (hb : s.cfg.hasSleep = true) (hw : s.inp.wake = true) (hl : s.lineS = true)
    (n : State) : idleTick s n = n.raiseFault .externallyInterrupted := by
  simp [idleTick, idleAsleep, hb, hw, hl]

/-- Without an edge when awake or a wake when asleep, both kinds of IDLE are the same (R216). -/
theorem idleTick_quiet {s : State} (h : ¬if s.cfg.hasSleep = true then s.inp.wake = true else s.edgeFall = true)
    (n : State) : idleTick s n = idleQuiet s n := by
  cases hb : s.cfg.hasSleep <;> simp [hb] at h
  · simp [idleTick, idleAwake, hb, h]
  · simp [idleTick, idleAsleep, hb, h]

/-- Settles O39: an edge or a wake comes first, then the class-2 signal; IDLE awake and asleep share the rest. -/
theorem idleTick_spec : Obligations.IdleTick := by
  intro s h hr hs woken pulse
  rw [step_idle h.valid hr hs]
  obtain ⟨⟨hoff, _⟩, hawait, _⟩ := h.controlAt hs
  obtain ⟨_, _, _, _, _, _, _, _, hcomp, _⟩ := (valid_iff_constraints s.cfg).1 h.valid
  refine ⟨fun hb hw => ?_, fun hb hw hl => ?_, fun hb hw hl => ?_, fun hw hp => ?_, fun hw hp => ?_⟩
  · rw [idleTick_edge hb (by simpa [woken, hb] using hw)]
    simp [State.startMeasure, State.enterMeasure, State.dlStart]
  · rw [idleTick_wakeLow hb (by simpa [woken, hb] using hw) hl]
    simp [State.startMeasure, State.enterMeasure, State.dlStart, Nat.cast_sub hcomp.le]
  · rw [idleTick_wakeHigh hb (by simpa [woken, hb] using hw) hl, raiseFault_idle (by simpa using hoff)]
    simp [State.recover, State.recoverToIrqHook, State.dlStop, dlStopped, FaultKind.code, State.base_eq, hawait]
  · rw [idleTick_quiet hw, idleQuiet, if_pos ((class2Pending_iff s).2 hp)]
    simp [State.enterIntPulse]
  · rw [idleTick_quiet hw, idleQuiet, if_neg (mt (class2Pending_iff s).1 hp)]

/-! ### One tick of RESET_MEASURE -/

theorem step_measure {s : State} (hv : s.cfg.valid = true) (hr : s.inp.rstN = true) (hs : s.st = .resetMeasure) :
    step s = .next (s.endTick (resetMeasureTick s s.base)) := by
  rw [step_base hv hr (by simp [hs]), engineTick, hs]
  rfl

theorem measure_answered {s : State} (hl : s.lineS = true)
    (hw : s.rstQualified = true ∨ (s.cfg.tResetMin : Int) ≤ s.resetWidth) (n : State) :
    resetMeasureTick s n = n.endReset := by
  rw [resetMeasureTick, if_pos hl, if_pos hw]

theorem measure_tooShort {s : State} (hl : s.lineS = true)
    (hw : ¬(s.rstQualified = true ∨ (s.cfg.tResetMin : Int) ≤ s.resetWidth)) (n : State) :
    resetMeasureTick s n = n.raiseFault .resetTooShort := by
  rw [resetMeasureTick, if_pos hl, if_neg hw]

theorem measure_stretched {s : State} (hl : s.lineS = false)
    (hc : s.class1Pending = true ∧ s.rstQualified = false ∧ (s.cfg.tResetMin : Int) ≤ s.resetWidth) (n : State) :
    resetMeasureTick s n = n.enterStretch s.resetWidth := by
  rw [resetMeasureTick, if_neg (by simp [hl]), if_pos hc]

theorem measure_timeout {s : State} (hl : s.lineS = false)
    (hc : ¬(s.class1Pending = true ∧ s.rstQualified = false ∧ (s.cfg.tResetMin : Int) ≤ s.resetWidth))
    (hd : s.dlRemaining < 0) (n : State) : resetMeasureTick s n = n.raiseFault .shortPulseTimeout := by
  rw [resetMeasureTick, if_neg (by simp [hl]), if_neg hc, if_pos hd]

theorem measure_goesOn {s : State} (hl : s.lineS = false)
    (hc : ¬(s.class1Pending = true ∧ s.rstQualified = false ∧ (s.cfg.tResetMin : Int) ≤ s.resetWidth))
    (hd : 0 ≤ s.dlRemaining) (n : State) : resetMeasureTick s n = n := by
  rw [resetMeasureTick, if_neg (by simp [hl]), if_neg hc, if_neg (not_lt.2 hd)]

/-- The two faults of a measurement stop nothing and lead to IDLE (R286). -/
theorem raiseFault_measuring {n : State} (hp : n.te.phase = .idle) {f : FaultKind}
    (hf : f = .resetTooShort ∨ f = .shortPulseTimeout) : n.raiseFault f =
      { n with faultCode := f.code, st := .idle, awaitingReset := true, rstQualified := false, dl := dlStopped } := by
  rw [raiseFault_idle hp]
  obtain rfl | rfl := hf <;> rfl

/-- Settles O40: the line at the tick, then the stretch, then the deadline. -/
theorem resetMeasureTick_spec : Obligations.ResetMeasureTick := by
  intro s h hr hs W stretch
  rw [step_measure h.valid hr hs]
  obtain ⟨⟨hp, _⟩, _⟩ := h.controlAt hs
  have hoff : s.base.te.phase = .idle := by simpa using hp
  have hstretch : (s.class1Pending = true ∧ s.rstQualified = false ∧ (s.cfg.tResetMin : Int) ≤ s.resetWidth) ↔
      stretch := by simp [State.class1Pending, stretch, State.resetWidth, W, and_assoc]
  refine ⟨fun hl hw => ?_, fun hl hw => ?_, fun hl hc => ?_, fun hl hc hd => ?_, fun hl hc hd => ?_⟩
  · rw [measure_answered hl hw]
    simp [State.endReset, State.dlStop, dlStopped]
  · rw [measure_tooShort hl hw, raiseFault_measuring hoff (.inl rfl)]
    rfl
  · rw [measure_stretched hl (hstretch.2 hc)]
    simp [State.enterStretch, State.resetWidth, W]
  · rw [measure_timeout hl (mt hstretch.1 hc) hd, raiseFault_measuring hoff (.inr rfl)]
    rfl
  · rw [measure_goesOn hl (mt hstretch.1 hc) hd]

/-! ### A reset low across its ticks -/

/-- `v` measures the reset that began in the IDLE of `s`, `k` ticks after its falling edge, with no class-1 signal to
stretch it. -/
structure Measures (s : State) (k : Nat) (v : State) : Prop where
  cfg : v.cfg = s.cfg
  st : v.st = .resetMeasure
  teOff : v.te.phase = .idle
  rstQualified : v.rstQualified = false
  faultCode : v.faultCode = s.faultCode
  intClass : v.intClass = 0
  dl : v.dl = ⟨(s.cfg.tResetDeadline : Int) - k, true⟩

theorem owDrive_of_idle {s : State} (hs : s.st = .idle) (hp : s.te.phase = .idle) : s.owDrive = false := by
  simp [State.owDrive, hs, hp]

namespace Measures

variable {s v : State} {k w : Nat}

theorem dlRemaining (h : Measures s k v) : v.dlRemaining = (s.cfg.tResetDeadline : Int) - k := by
  simp [State.dlRemaining, h.dl]

theorem resetWidth (h : Measures s k v) : v.resetWidth = k := by
  rw [State.resetWidth, h.dlRemaining, h.cfg]
  omega

/-- The block does not drive the line while it measures, so it sees the master's low. -/
theorem lineS (h : Measures s k v) (hlat : s.cfg.inLatency = 0) (hl : v.inp.extLow = decide (k < w)) :
    v.lineS = decide (w ≤ k) := by
  rw [lineS_of_released (by rwa [h.cfg]) (owDrive_of_measuring h.st h.teOff), hl]
  simp [← decide_not]

theorem not_stretched (h : Measures s k v) :
    ¬(v.class1Pending = true ∧ v.rstQualified = false ∧ (v.cfg.tResetMin : Int) ≤ v.resetWidth) := by
  simp [State.class1Pending, h.intClass]

/-- The tick of the falling edge (R201). -/
theorem one {s : State} (h : Inv s) (hs : s.st = .idle) (hc : s.intClass = 0) (hcond : s.inp.condValid = false) :
    Measures s 1 (s.endTick (s.base.startMeasure s.base.cfg.tResetDeadline)) := by
  obtain ⟨⟨hoff, _⟩, _⟩ := h.controlAt hs
  exact ⟨by simp, by simp, by simpa using hoff, by simp, by simp, by simp [hcond, hc], by simp⟩

/-- While the low lasts and the deadline has not elapsed the measurement goes on (R204). -/
theorem next (h : Measures s k v) (hv : s.cfg.valid = true) (hlat : s.cfg.inLatency = 0) (hr : v.inp.rstN = true)
    (hl : v.inp.extLow = decide (k < w)) (hcond : v.inp.condValid = false) (hkw : k < w)
    (hk : k ≤ s.cfg.tResetDeadline) : ∃ u, step v = .next u ∧ Measures s (k + 1) u := by
  have hstep := step_measure (by rwa [h.cfg]) hr h.st
  rw [measure_goesOn (by simp [h.lineS hlat hl, hkw]) h.not_stretched (by rw [h.dlRemaining]; omega)] at hstep
  refine ⟨_, hstep, by simp [h.cfg], by simp [h.st], by simp [h.teOff], by simp [h.rstQualified], by simp [h.faultCode],
    by simp [hcond, h.intClass], ?_⟩
  rw [State.endTick_dl, State.base_dl, h.dl, dlCount_of_nonneg (by omega)]
  congr 1
  omega

end Measures

/-- With the line high before it, a low tick is a falling edge in IDLE too (R17, R201). -/
theorem edgeFall_of_idle {s : State} (hlat : s.cfg.inLatency = 0) (hs : s.st = .idle) (hp : s.te.phase = .idle)
    (hprev : s.prevS = true) (hl : s.inp.extLow = true) : s.edgeFall = true := by
  simp [State.edgeFall, lineS_of_released hlat (owDrive_of_idle hs hp), hl, hprev]

/-- A reset low is measured from its falling edge until it ends or its deadline has elapsed. -/
theorem after_reset_low {s : State} {w n k : Nat} (h : Inv s) (hlat : s.cfg.inLatency = 0)
    (hb : s.cfg.hasSleep = false) (hs : s.st = .idle) (hprev : s.prevS = true) (hc : s.intClass = 0) (hw : 1 ≤ w)
    (hlow : LowFor s w n) (hcond : ∀ j, j ≤ n → (s.inputAt j).condValid = false) (hk1 : 1 ≤ k) (hkn : k ≤ n + 1)
    (hkw : k ≤ w) (hk : k ≤ s.cfg.tResetDeadline + 1) : ∃ v, After s k v ∧ Measures s k v := by
  induction k, hk1 using Nat.le_induction with
  | base =>
    obtain ⟨hr, hl⟩ := hlow.inp (after_zero.2 rfl) n.zero_le
    obtain ⟨⟨hoff, _⟩, _⟩ := h.controlAt hs
    have hedge := edgeFall_of_idle hlat hs hoff hprev (hl.trans (decide_eq_true hw))
    have hstep := step_idle h.valid hr hs
    rw [idleTick_edge hb hedge] at hstep
    exact ⟨_, after_succ.2 ⟨s, after_zero.2 rfl, hstep⟩, .one h hs hc (hcond 0 n.zero_le)⟩
  | succ k hk1 ih =>
    obtain ⟨v, hav, hm⟩ := ih (by omega) (by omega) (by omega)
    obtain ⟨hr, hl⟩ := hlow.inp hav (by omega)
    have hcv : v.inp.condValid = false := by
      rw [State.inp, after_inputAt hav]
      exact hcond k (by omega)
    obtain ⟨u, hstep, hm'⟩ := hm.next h.valid hlat hr hl hcv (by omega) (by omega)
    exact ⟨u, after_succ.2 ⟨v, hav, hstep⟩, hm'⟩

/-- Settles O42: the measurement runs to the tick of the release, or to the one at which the deadline has elapsed. -/
theorem resetAnsweredExactly : Obligations.ResetAnsweredExactly := by
  intro s w h hlat hb hs hprev hc hw hlow hcond
  obtain ⟨_, _, ⟨_, hdead⟩, _⟩ := (valid_iff_constraints s.cfg).1 h.valid
  have hrun {k : Nat} (hk1 : 1 ≤ k) (hk : k ≤ min w (s.cfg.tResetDeadline + 1)) :
      ∃ v, After s k v ∧ Measures s k v ∧ step v = .next (v.endTick (resetMeasureTick v v.base)) ∧
        v.lineS = decide (w ≤ k) := by
    obtain ⟨v, hav, hm⟩ := after_reset_low h hlat hb hs hprev hc hw hlow hcond hk1 (by omega) (by omega) (by omega)
    obtain ⟨hr, hl⟩ := hlow.inp hav hk
    exact ⟨v, hav, hm, step_measure (hm.cfg ▸ h.valid) hr hm.st, hm.lineS hlat hl⟩
  refine ⟨fun hlt => ?_, fun hle hle' => ?_, fun hlong => ?_⟩
  · obtain ⟨v, hav, hm, hstep, hl⟩ := hrun hw (by omega)
    rw [measure_tooShort (by simp [hl]) (by simp [hm.rstQualified, hm.resetWidth, hm.cfg, hlt]),
      raiseFault_measuring (by simpa using hm.teOff) (.inl rfl)] at hstep
    exact ⟨_, after_succ.2 ⟨v, hav, hstep⟩, by simp, by simp [FaultKind.code], by simp⟩
  · obtain ⟨v, hav, hm, hstep, hl⟩ := hrun hw (by omega)
    rw [measure_answered (by simp [hl]) (by simp [hm.resetWidth, hm.cfg, hle])] at hstep
    exact ⟨_, after_succ.2 ⟨v, hav, hstep⟩, by simp, by simp [hm.cfg], by simp [hm.faultCode]⟩
  · obtain ⟨v, hav, hm, hstep, hl⟩ := hrun (k := s.cfg.tResetDeadline + 1) (by omega) (by omega)
    rw [measure_timeout (by simp [hl]; omega) hm.not_stretched (by rw [hm.dlRemaining]; omega),
      raiseFault_measuring (by simpa using hm.teOff) (.inr rfl)] at hstep
    exact ⟨_, after_succ.2 ⟨v, hav, hstep⟩, by simp, by simp [FaultKind.code], by simp⟩

/-! ### The presence pulse -/

/-- A run of `j` ticks followed by one of `k` ticks. -/
theorem After.trans {s t u : State} {j k : Nat} (h₁ : After s j t) (h₂ : After t k u) : After s (j + k) u := by
  induction k generalizing u with
  | zero => rwa [after_zero.1 h₂]
  | succ k ih =>
    obtain ⟨v, htv, hvu⟩ := after_succ.1 h₂
    exact after_succ.2 ⟨v, ih htv, hvu⟩

theorem NoReset.shift {s t : State} {j k : Nat} (hr : NoReset s (j + k)) (h : After s j t) : NoReset t k := by
  intro i hi
  rw [after_inputAt h]
  exact hr (j + i) (by omega)

theorem owDrive_of_presenceWait {s : State} (hs : s.st = .presenceWait) (hp : s.te.phase = .idle) :
    s.owDrive = false := by
  simp [State.owDrive, hs, hp]

theorem owDrive_of_presenceLow {s : State} (hs : s.st = .presenceLow) : s.owDrive = true := by
  simp [State.owDrive, hs]

/-- PRESENCE_WAIT hands over to PRESENCE_LOW at the last tick of `T_PDH` (R210). -/
theorem after_presenceWait {s : State} (h : Inv s) (hs : s.st = .presenceWait) (hr : NoReset s s.dly) :
    ∃ p, After s s.dly p ∧ p.cfg = s.cfg ∧ p.st = .presenceLow ∧ p.dly = s.cfg.tPdl ∧ p.te = s.te := by
  have hdelays : s.st.delays = true := (delays_iff s.st).2 (.inr (.inr (.inl hs)))
  obtain ⟨v, hw, hrun⟩ := after_delay h.valid hdelays (h.delaying (.inl hdelays)) hr
  rw [hs] at hrun
  exact ⟨_, hrun, by simp [delayExit, hw.cfg], by simp [delayExit], by simp [delayExit, hw.cfg],
    by simp [delayExit, hw.te]⟩

/-- PRESENCE_LOW hands over to the receive of the command byte at the last tick of `T_PDL` (R212). -/
theorem after_presenceLow {p : State} (hv : p.cfg.valid = true) (hs : p.st = .presenceLow) (hd : 1 ≤ p.dly)
    (hr : NoReset p p.dly) :
    ∃ u, After p p.dly u ∧ u.st = .romCmd ∧ u.te = beginsReceiving .recvByte .rom p.te.cur ∧ u.dl = slotWait p.cfg ∧
      u.intArmed = true := by
  obtain ⟨v, hw, hrun⟩ := after_delay hv ((delays_iff p.st).2 (.inr (.inr (.inr hs)))) hd hr
  rw [hs, delayExit, State.startCommand, teBegin_receives (.inr rfl)] at hrun
  exact ⟨_, hrun, by simp, by simp [hw.te], by simp [hw.cfg], by simp⟩

/-- Settles O43: two waiting states, one after the other, of which the second drives the line. -/
theorem presencePulse : Obligations.PresencePulse := by
  intro s h hs hdly hr
  obtain ⟨⟨hoff, _⟩, _⟩ := h.controlAt hs
  obtain ⟨_, _, _, _, _, _, ⟨_, hpdl⟩, _⟩ := (valid_iff_constraints s.cfg).1 h.valid
  obtain ⟨p, hap, hcfg, hst, hpdly, hte⟩ := after_presenceWait h hs fun j hj => hr j (by omega)
  rw [hdly] at hap
  have hrp : NoReset p p.dly := by
    rw [hpdly]
    exact hr.shift hap
  have hv : p.cfg.valid = true := by rw [hcfg, h.valid]
  constructor
  · intro k hk
    by_cases hlt : k < s.cfg.tPdh
    · obtain ⟨v, hav, hw⟩ := after_delays h.valid (by simp [hs, EngineState.delays]) (hdly.symm ▸ hlt) fun j hj =>
        hr j (by omega)
      have hst' : v.st = .presenceWait := hw.st.trans hs
      exact ⟨v, hav, by simp [owDrive_of_presenceWait hst' (by rw [hw.te, hoff]), hlt], by rw [if_pos hlt, hst']⟩
    · obtain ⟨v, hav, hw⟩ := after_delays hv (by simp [hst, EngineState.delays]) (k := k - s.cfg.tPdh) (by omega)
        fun j hj => hrp j (by omega)
      have hst' : v.st = .presenceLow := hw.st.trans hst
      have hrun := hap.trans hav
      rw [Nat.add_sub_cancel' (by omega)] at hrun
      exact ⟨v, hrun, by simp [owDrive_of_presenceLow hst', not_lt.1 hlt], by rw [if_neg hlt, hst']⟩
  · obtain ⟨u, hpu, hust, hute, hudl, harmed⟩ := after_presenceLow hv hst (by omega) hrp
    rw [hpdly] at hpu
    rw [hte] at hute
    rw [hcfg] at hudl
    exact ⟨u, hap.trans hpu, hust, by simp [State.owDrive, hust, hute, beginsReceiving], hute, hudl, harmed⟩

/-! ### A port that a tick does not look at -/

/-- Other ports at this tick make no difference if the line, block reset, the request and the condition are the same, and
of `wake`, `irq_ack` and `dev_end` the one that the engine state looks at (R202, R265, R268). -/
theorem step_withInputs_unread {s : State} {x : Inputs} (hr : s.inp.rstN = true) (hr' : x.rstN = true)
    (hl : x.extLow = s.inp.extLow)
    (hx : x.xreqValid = s.inp.xreqValid ∧ x.xreqOp = s.inp.xreqOp ∧ x.xreqData = s.inp.xreqData)
    (hc : x.condValid = s.inp.condValid ∧ x.condAlarm = s.inp.condAlarm ∧ x.condClass = s.inp.condClass)
    (hw : s.st = .idle → s.cfg.hasSleep = true → x.wake = s.inp.wake) (hi : s.st = .irqHook → x.irqAck = s.inp.irqAck)
    (hd : s.st = .device → s.te.phase = .idle → x.devEnd = s.inp.devEnd) : step (s.withInputs x) = step s := by
  obtain ⟨n, hn, hn'⟩ := requestTick_withInputs hl hx hd
  exact step_withInputs hl hr' hr hn hn' (engineTick_withInputs hl hw hi hd n) hc

/-! ### The line, where a tick does not look at it -/

/-- `n` with another sample kept and another environment. -/
def State.withSample (p : Bool) (e : Environment) (n : State) : State := { n with prevS := p, env := e }

theorem ite_withSample {c : Prop} [Decidable c] {p : Bool} {e : Environment} {a b a' b' : State}
    (ha : a' = a.withSample p e) (hb : b' = b.withSample p e) :
    (if c then a' else b') = (if c then a else b).withSample p e := by
  rw [ha, hb, apply_ite (State.withSample p e)]

theorem beginTick_withEnv (s : State) {e : Environment} (ht : e.tick = s.env.tick) :
    (s.withEnv e).beginTick = s.beginTick.withSample (s.withEnv e).lineS e := by
  unfold State.beginTick State.withEnv State.withSample
  rw [← ht]

/-- A request reads `dev_end` and nothing else around the block (R261 to R265). -/
theorem request_withSample (op : Option TransferOp) (data : Byte) {p : Bool} {e : Environment} {n : State}
    (hd : (n.withSample p e).inp.devEnd = n.inp.devEnd) :
    (n.withSample p e).request op data = (n.request op data).withSample p e := by
  unfold State.request
  rw [hd]
  refine ite_withSample rfl (ite_withSample rfl (ite_withSample rfl ?_))
  cases op <;> rfl

theorem requestTick_withSample {s s' n : State} {p : Bool} {e : Environment} (hq : s'.requested = s.requested)
    (hd : (n.withSample p e).inp.devEnd = n.inp.devEnd) :
    ∃ m, requestTick s n = .next m ∧ requestTick s' (n.withSample p e) = .next (m.withSample p e) := by
  unfold requestTick
  rw [hq]
  unfold State.requested
  split
  next => exact ⟨n, rfl, rfl⟩
  next i hi =>
    split at hi
    · obtain rfl := Option.some.inj hi
      exact ⟨_, exec_xreq _ _ n, by rw [exec_xreq, request_withSample _ _ hd]⟩
    · cases hi

/-- In IRQ_HOOK and in an idle session the engine's rule reads `irq_ack` or `dev_end`, nothing else around the block. -/
theorem engineTick_withSample {s : State} {p : Bool} {e : Environment} (n : State)
    (hs : s.st = .irqHook ∨ (s.st = .device ∧ s.te.phase = .idle))
    (hi : (s.withEnv e).inp.irqAck = s.inp.irqAck) (hd : (s.withEnv e).inp.devEnd = s.inp.devEnd) :
    ∃ m, engineTick s n = .next m ∧ engineTick (s.withEnv e) (n.withSample p e) = .next (m.withSample p e) := by
  obtain hs | ⟨hs, hp⟩ := hs
  · refine ⟨irqHookTick s n, by rw [engineTick, hs], ?_⟩
    rw [engineTick, State.withEnv_st, hs]
    refine congrArg Host.Outcome.next ?_
    unfold irqHookTick
    rw [hi]
    exact ite_withSample rfl rfl
  · refine ⟨if s.inp.devEnd then n.endSession else n, by simp [engineTick, deviceTick, hs, hp], ?_⟩
    rw [engineTick, State.withEnv_st, hs]
    dsimp only
    rw [deviceTick, State.withEnv_te, if_pos hp, hd]
    exact congrArg Host.Outcome.next (ite_withSample rfl rfl)

theorem endTick_withSample {s s' : State} (m : State) (p : Bool) (e : Environment)
    (hc : s'.inp.condValid = s.inp.condValid ∧ s'.inp.condAlarm = s.inp.condAlarm ∧
      s'.inp.condClass = s.inp.condClass) :
    s'.endTick (m.withSample p e) = (s.endTick m).withSample p s'.nextEnv := by
  unfold State.endTick
  simp only [hc]
  split <;> rfl

/-- Settles O51: `wake` is a port that no other state looks at, and in IRQ_HOOK and in an idle session neither the request
nor the engine's rule reads the sample. -/
theorem inputsIgnored : Obligations.InputsIgnored := by
  intro s hv hr
  refine ⟨fun hs => ?_, fun hs hp hx hd => ?_, fun hs b hist => ?_⟩
  · exact (step_withInputs_unread (x := { s.inp with wake := false }) hr hr rfl ⟨rfl, rfl, rfl⟩ ⟨rfl, rfl, rfl⟩
      (fun hidle hsleep => absurd ⟨hidle, hsleep⟩ hs) (fun _ => rfl) (fun _ _ => rfl)).symm
  · have hreq : requestTick s s.beginTick = .next s.beginTick := by simp [requestTick, State.requested, hx]
    rw [step_run hv hr, runTick, hreq, andThen, engineTick_sessionWaits hs hp hd, andThen]
  · let e : Environment := ⟨{ s.inp with extLow := b } :: s.env.script.tail, s.env.tick, hist⟩
    obtain ⟨n, hn, hn'⟩ := requestTick_withSample (s := s) (s' := s.withEnv e) (n := s.beginTick)
      (p := (s.withEnv e).lineS) (e := e) rfl rfl
    obtain ⟨m, hm, hm'⟩ := engineTick_withSample (p := (s.withEnv e).lineS) (e := e) n hs rfl rfl
    refine ⟨s.endTick m, (s.withEnv e).endTick (m.withSample (s.withEnv e).lineS e), ?_, ?_, ?_⟩
    · rw [step_run hv hr, runTick, hn, andThen, hm, andThen]
    · show step (s.withEnv e) = _
      rw [step_run (s := s.withEnv e) hv hr, runTick, beginTick_withEnv s (e := e) rfl, hn', andThen, hm', andThen]
    · rw [endTick_withSample m _ e ⟨rfl, rfl, rfl⟩]
      rfl

end Sys2Proof.Machine

/-! PROOFS. The statements of 44_rom_commands.md: the dispatch of the command byte, and the search, READ ROM and MATCH ROM
commands at the completion of a data transfer. -/

namespace Sys2Proof.Machine

/-! ### The operations the ROM commands share, with their whole result -/

theorem select_eq (n : State) :
    n.select = { n with st := .device, te := { n.te with phase := .idle }, dl := dlStopped } := rfl

theorem notSelected_eq (n : State) :
    n.notSelected =
      { n with st := .idle, awaitingReset := true, te := { n.te with phase := .idle }, dl := dlStopped } := rfl

theorem receiveCommand_of_ne_resume {c : Byte} (hc : c ≠ 0xA5) (n : State) :
    n.receiveCommand c = { n with rom := { n.rom with cmd := c, idx := 0 }, resumeEligible := false } := by
  rw [State.receiveCommand, if_neg hc]

theorem receiveCommand_resume (n : State) :
    n.receiveCommand 0xA5 = { n with rom := { n.rom with cmd := 0xA5, idx := 0 } } := by
  rw [State.receiveCommand, if_pos rfl]

/-- The two operations that send an identity byte load it unchanged (R113, R170). -/
theorem teBegin_sendsByte {op : TransferOp} (h : op = .sendByte ∨ op = .searchByte) (data : Byte) (c : Client)
    (n : State) :
    n.teBegin op data c = { n with te := beginsSending op c data, intArmed := true, dl := slotWait n.cfg } := by
  obtain rfl | rfl := h
  · exact teBegin_sends (by decide) data c n
  · exact teBegin_sends (by decide) data c n

theorem startRom_sendsByte {op : TransferOp} (h : op = .sendByte ∨ op = .searchByte) (data : Byte) (n : State) :
    n.startRom op data =
      { n with st := .romExec, te := beginsSending op .rom data, intArmed := true, dl := slotWait n.cfg } :=
  teBegin_sendsByte h data .rom { n with st := .romExec }

theorem nextIdByte_eq {op : TransferOp} (h : op = .sendByte ∨ op = .searchByte) (n : State) :
    n.nextIdByte op =
      { n with
        rom := { n.rom with idx := n.rom.idx + 1 }, te := beginsSending op .rom (byteAt n.id (n.rom.idx + 1))
        intArmed := true, dl := slotWait n.cfg } :=
  teBegin_sendsByte h _ .rom { n with rom := { n.rom with idx := n.rom.idx + 1 } }

theorem nextRxByte_eq (n : State) :
    n.nextRxByte =
      { n with
        rom := { n.rom with idx := n.rom.idx + 1 }, te := beginsReceiving .recvByte .rom n.te.cur, intArmed := true
        dl := slotWait n.cfg } :=
  teBegin_receives (.inr rfl) 0 .rom { n with rom := { n.rom with idx := n.rom.idx + 1 } }

/-! ### The dispatch of the command byte -/

theorem exec_resume (s : State) :
    exec .resume s =
      .next (if s.resumeEligible then (s.receiveCommand 0xA5).select else (s.receiveCommand 0xA5).notSelected) := rfl

theorem exec_condSearch_dispatch {s : State} (hs : s.st ≠ .romExec) :
    exec .condSearch s =
      .next (if s.alarmAsserted then (s.receiveCommand 0xEC).startRom .searchByte s.id[0]
        else (s.receiveCommand 0xEC).notSelected) :=
  congrArg Host.Outcome.next (if_neg hs)

/-- A command byte that selects or ends not selected at once, RESUME apart (R231, R240). -/
theorem receiveCommand_select {c : Byte} (hc : c ≠ 0xA5) (n : State) :
    (n.receiveCommand c).select =
      { n with
        st := .device, rom := { n.rom with cmd := c, idx := 0 }, resumeEligible := false
        te := { n.te with phase := .idle }, dl := dlStopped } := by
  rw [receiveCommand_of_ne_resume hc, select_eq]

theorem receiveCommand_notSelected {c : Byte} (hc : c ≠ 0xA5) (n : State) :
    (n.receiveCommand c).notSelected =
      { n with
        st := .idle, awaitingReset := true, rom := { n.rom with cmd := c, idx := 0 }, resumeEligible := false
        te := { n.te with phase := .idle }, dl := dlStopped } := by
  rw [receiveCommand_of_ne_resume hc, notSelected_eq]

/-- A command byte that is answered with a byte (R231). -/
theorem receiveCommand_startRom {c : Byte} (hc : c ≠ 0xA5) {op : TransferOp} (h : op = .sendByte ∨ op = .searchByte)
    (data : Byte) (n : State) :
    (n.receiveCommand c).startRom op data =
      { n with
        st := .romExec, rom := { n.rom with cmd := c, idx := 0 }, resumeEligible := false
        te := beginsSending op .rom data, intArmed := true, dl := slotWait n.cfg } := by
  rw [receiveCommand_of_ne_resume hc, startRom_sendsByte h]

/-- Settles O15: each command keeps its byte, then selects or does not. -/
theorem immediateRomCommands : Obligations.ImmediateRomCommands := by
  intro s
  refine ⟨congrArg Host.Outcome.next (receiveCommand_select (by decide) s), fun he => ?_, fun he => ?_,
    fun hs ha => ?_, fun c hc => congrArg Host.Outcome.next (receiveCommand_notSelected hc s)⟩
  · rw [exec_resume, if_pos he, receiveCommand_resume, select_eq]
  · rw [exec_resume, if_neg (ne_true_of_eq_false he), receiveCommand_resume, notSelected_eq]
  · rw [exec_condSearch_dispatch hs, if_neg (ne_true_of_eq_false ha), receiveCommand_notSelected (by decide)]

/-- Settles O16: the four commands differ in their code and in the operation that sends `id[0]`. -/
theorem searchAndReadRomBegin : Obligations.SearchAndReadRomBegin := by
  intro s hs
  have hbegins {c : Byte} (hc : c ≠ 0xA5) {op : TransferOp} (hop : op = .sendByte ∨ op = .searchByte) :=
    receiveCommand_startRom hc hop s.id[0] s
  refine ⟨congrArg Host.Outcome.next ((if_neg hs).trans (hbegins (by decide) (.inr rfl))), fun ha => ?_,
    congrArg Host.Outcome.next ((if_neg hs).trans (hbegins (by decide) (.inl rfl))),
    congrArg Host.Outcome.next ((if_neg hs).trans (hbegins (by decide) (.inl rfl)))⟩
  rw [exec_condSearch_dispatch hs, if_pos ha, hbegins (by decide) (.inr rfl)]

theorem dispatched_of_ne_resume {c : Byte} (hc : c ≠ 0xA5) (n : State) :
    n.dispatched c =
      { n with st := .romExec, rom := { n.rom with cmd := c, idx := 0 }, resumeEligible := false } := by
  rw [State.dispatched, receiveCommand_of_ne_resume hc]

/-- Settles O17: both receive the first byte, and WRITE ROM sets its half before. -/
theorem matchAndWriteRomBegin : Obligations.MatchAndWriteRomBegin := by
  intro s hs
  constructor
  · rw [exec_matchRom_dispatch hs, dispatched_of_ne_resume (by decide)]
    rfl
  · rw [exec_writeRom_dispatch hs, State.writing, dispatched_of_ne_resume (by decide)]
    rfl

/-! ### The completion of a data transfer -/

theorem exec_search {i : Instr} (hi : i = .searchRom ∨ i = .condSearch) {s : State} (hs : s.st = .romExec) :
    exec i s = .next s.searchNext := by
  obtain rfl | rfl := hi
  · exact congrArg Host.Outcome.next (if_pos hs)
  · exact congrArg Host.Outcome.next (if_pos hs)

theorem searchMatched_iff (n : State) : n.searchMatched = true ↔ n.te.d = bitOf n.te.sr n.te.cnt := beq_iff_eq

theorem searchNext_ends {n : State} (h : n.te.d ≠ bitOf n.te.sr n.te.cnt ∨ n.rom.idx = 7) :
    n.searchNext = n.notSelected := by
  obtain hd | hidx := h
  · exact if_pos (eq_false_of_ne_true (mt (searchMatched_iff n).1 hd))
  · rw [State.searchNext, if_pos hidx, ite_self]

theorem searchNext_goesOn {n : State} (hd : n.te.d = bitOf n.te.sr n.te.cnt) (hidx : n.rom.idx ≠ 7) :
    n.searchNext = n.nextIdByte .searchByte := by
  rw [State.searchNext, if_neg (ne_false_of_eq_true ((searchMatched_iff n).2 hd)), if_neg hidx]

/-- Settles O18: a mismatch or the last byte ends the search, every other byte is followed by the next one. -/
theorem searchContinues : Obligations.SearchContinues := by
  intro s i hi hs
  rw [exec_search hi hs]
  refine ⟨fun hend => ?_, fun hd hidx => ?_⟩
  · rw [searchNext_ends hend, notSelected_eq]
  · rw [searchNext_goesOn hd hidx, nextIdByte_eq (.inr rfl)]

theorem sendNext_goesOn {n : State} (hidx : n.rom.idx ≠ 7) (last : State → State) :
    n.sendNext last = n.nextIdByte .sendByte := if_neg hidx

theorem sendNext_ends {n : State} (hidx : n.rom.idx = 7) (last : State → State) : n.sendNext last = last n :=
  if_pos hidx

theorem readRomEnd_selects {n : State} (h : n.cfg.readRomSelects = true) : n.readRomEnd = n.select := if_pos h

theorem readRomEnd_notSelected {n : State} (h : n.cfg.readRomSelects = false) : n.readRomEnd = n.notSelected :=
  if_neg (ne_true_of_eq_false h)

/-- Settles O19: READ ROM sends the identity and ends with `State.readRomEnd`. -/
theorem readRomContinues : Obligations.ReadRomContinues := by
  intro s i hi hs
  rw [readRom_sendsIdentity hi hs s rfl rfl]
  refine ⟨fun hidx => ?_, fun hidx hsel => ?_, fun hidx hsel => ?_⟩
  · rw [sendNext_goesOn hidx, nextIdByte_eq (.inl rfl)]
  · rw [sendNext_ends hidx, readRomEnd_selects hsel, select_eq]
  · rw [sendNext_ends hidx, readRomEnd_notSelected hsel, notSelected_eq]

theorem matchNext_goesOn {n : State} (hidx : n.rom.idx ≠ 7) : n.matchNext = n.storeRx.nextRxByte := if_neg hidx

/-- Settles O20: the byte is kept first, and the comparison is on the bytes with it. -/
theorem matchRomContinues : Obligations.MatchRomContinues := by
  intro s hs kept
  rw [exec_matchRom hs]
  have hkept : s.storeRx = { s with rom := kept } := rfl
  refine ⟨fun hidx => ?_, fun hidx hall => ?_, fun hidx hdiff => ?_⟩
  · rw [matchNext_goesOn hidx, nextRxByte_eq, hkept]
  · rw [matchNext_last hidx, hkept, if_pos hall, select_eq]
  · rw [matchNext_last hidx, hkept, if_neg hdiff, notSelected_eq]

end Sys2Proof.Machine

/-! PROOFS. The statements of 45_device_interface.md: refused and ignored requests, `dev_end`, and `set_condition`. -/

namespace Sys2Proof.Machine

/-! ### A tick with other ports -/

/-- Other ports with the same line and the same condition write end the tick the same. -/
theorem endTick_withInputs {s : State} {x : Inputs} (hl : x.extLow = s.inp.extLow)
    (hc : x.condValid = s.inp.condValid ∧ x.condAlarm = s.inp.condAlarm ∧ x.condClass = s.inp.condClass) (m : State) :
    (s.withInputs x).endTick (m.withEnv (s.withInputs x).env) = s.endTick m := by
  unfold State.endTick
  rw [State.withInputs_inp, State.withInputs_nextEnv hl]
  simp only [hc]
  split <;> rfl

/-- A tick with other ports that the rule of the engine state does not look at. -/
theorem step_withInputs_of_request {s n m : State} {x : Inputs} (hv : s.cfg.valid = true) (hr : x.rstN = true)
    (hl : x.extLow = s.inp.extLow) (hw : x.wake = s.inp.wake) (hi : x.irqAck = s.inp.irqAck)
    (hd : x.devEnd = s.inp.devEnd) (hm : engineTick s n = .next m)
    (hn : requestTick (s.withInputs x) (s.withInputs x).beginTick = .next (n.withEnv (s.withInputs x).env)) :
    step (s.withInputs x) = .next ((s.withInputs x).endTick (m.withEnv (s.withInputs x).env)) := by
  have hrule := engineTick_withInputs hl (fun _ _ => hw) (fun _ => hi) (fun _ _ => hd) n
  rw [hm] at hrule
  rw [step_run (s := s.withInputs x) hv hr, runTick, hn, andThen, hrule]
  rfl

/-- With the request taken away, the rule of the engine state writes into the beginning of the tick. -/
theorem step_withoutRequest {s m : State} (hv : s.cfg.valid = true) (hr : s.inp.rstN = true)
    (hm : engineTick s s.beginTick = .next m) :
    step (s.withInputs { s.inp with xreqValid := false }) = .next (s.endTick m) := by
  have hstep := step_withInputs_of_request (x := { s.inp with xreqValid := false }) hv hr rfl rfl rfl rfl hm rfl
  rwa [endTick_withInputs (x := { s.inp with xreqValid := false }) rfl ⟨rfl, rfl, rfl⟩ m] at hstep

/-! ### The response registers, where a tick does not write them -/

/-- `n` with another response. -/
def State.withRsp (r : Response) (n : State) : State := { n with rsp := r }

/-- The outcome with another response in its state. -/
def mapRsp (r : Response) (o : Host.Outcome State Fault Refusal) : Host.Outcome State Fault Refusal :=
  andThen o fun m => .next (m.withRsp r)

/-- No operation of the device layer is in progress. -/
def State.noDeviceTransfer (n : State) : Prop := n.te.phase ≠ .idle → n.te.client = .rom

section

variable {r : Response}

theorem ite_withRsp {p : Prop} [Decidable p] {a b a' b' : State} (ha : a' = a.withRsp r) (hb : b' = b.withRsp r) :
    (if p then a' else b') = (if p then a else b).withRsp r := by
  rw [ha, hb, apply_ite (State.withRsp r)]

theorem next_withRsp {a b : State} (h : a = b.withRsp r) :
    (Host.Outcome.next a : Host.Outcome State Fault Refusal) = mapRsp r (.next b) := congrArg Host.Outcome.next h

theorem sendNext_withRsp {n : State} {last : State → State} (h : last (n.withRsp r) = (last n).withRsp r) :
    (n.withRsp r).sendNext last = (n.sendNext last).withRsp r := ite_withRsp h rfl

theorem writeNext_withRsp (n : State) : (n.withRsp r).writeNext = n.writeNext.withRsp r := by
  unfold State.writeNext
  rw [show (n.withRsp r).rom = n.rom from rfl]
  cases n.rom.step
  · exact ite_withRsp (ite_withRsp rfl rfl) rfl
  · exact sendNext_withRsp rfl

/-- A ROM command neither reads nor writes the response. -/
theorem exec_romCmd_withRsp (cfg : Config) (c : Byte) (n : State) :
    exec (decodeRomCmd cfg c) (n.withRsp r) = mapRsp r (exec (decodeRomCmd cfg c) n) := by
  have hsearch : (n.withRsp r).searchNext = n.searchNext.withRsp r := ite_withRsp rfl (ite_withRsp rfl rfl)
  have hread : (n.withRsp r).sendNext State.readRomEnd = (n.sendNext State.readRomEnd).withRsp r :=
    sendNext_withRsp (ite_withRsp rfl rfl)
  have hmatch : (n.withRsp r).matchNext = n.matchNext.withRsp r := ite_withRsp (ite_withRsp rfl rfl) rfl
  unfold decodeRomCmd
  split
  · exact next_withRsp (ite_withRsp hsearch rfl)
  split
  · exact next_withRsp (ite_withRsp hread rfl)
  split
  · exact next_withRsp (ite_withRsp hread rfl)
  split
  · exact next_withRsp (ite_withRsp hmatch rfl)
  split
  · rfl
  split
  · exact next_withRsp (ite_withRsp (writeNext_withRsp n) rfl)
  split
  · exact next_withRsp (ite_withRsp hsearch (ite_withRsp rfl rfl))
  split
  · exact next_withRsp (ite_withRsp rfl rfl)
  · rfl

/-- Only a device client is answered ABORTED (R266). -/
theorem abortTransfer_withRsp {n : State} (h : n.noDeviceTransfer) :
    (n.withRsp r).abortTransfer = n.abortTransfer.withRsp r := by
  unfold State.abortTransfer
  rw [show (n.withRsp r).te = n.te from rfl]
  by_cases hp : n.te.phase = .idle
  · rw [if_pos hp, if_pos hp]
  · have hdev : n.te.client ≠ .dev := by simp [h hp]
    rw [if_neg hp, if_neg hp]
    dsimp only
    rw [if_neg hdev, if_neg hdev]
    rfl

theorem raiseFault_withRsp {n : State} (h : n.noDeviceTransfer) (f : FaultKind) :
    (n.withRsp r).raiseFault f = (n.raiseFault f).withRsp r := by
  have habort := abortTransfer_withRsp (r := r) (n := { n with faultCode := f.code }) h
  exact (congrArg (State.recover f) habort).trans (by cases f <;> rfl)

theorem slotStart_withRsp (n : State) : slotStart (n.withRsp r) = (slotStart n).withRsp r := by
  cases hd : n.te.dir <;> cases hc : n.te.cur <;> cases hb : n.cfg.slotEndBounded <;>
    simp [slotStart, State.withRsp, State.dlStart, State.dlStop, hd, hc, hb]

/-- A ROM client's result is delivered to the ROM command, not to the device layer (R180). -/
theorem deliver_done_withRsp {n : State} (h : n.te.client = .rom) (x : Status) (data : Byte) :
    deliver (.done x data (n.withRsp r)) = mapRsp r (deliver (.done x data n)) := by
  unfold deliver
  dsimp only
  rw [show (n.withRsp r).te = n.te from rfl, h, show (n.withRsp r).commandAt = n.commandAt from rfl]
  dsimp only
  unfold State.commandAt
  split <;> exact exec_romCmd_withRsp _ _ n

theorem ite_deliver_withRsp {p : Prop} [Decidable p] {a b a' b' : SlotResult}
    (ha : deliver a' = mapRsp r (deliver a)) (hb : deliver b' = mapRsp r (deliver b)) :
    deliver (if p then a' else b') = mapRsp r (deliver (if p then a else b)) := by
  split
  · exact ha
  · exact hb

theorem deliver_completeSlot_withRsp {n : State} (h : n.te.client = .rom) :
    deliver (completeSlot (n.withRsp r)) = mapRsp r (deliver (completeSlot n)) := by
  have hdone (x : Status) (data : Byte) := deliver_done_withRsp (r := r) (n := n.teDone) h x data
  have hsearch : deliver (completeSearch (n.withRsp r)) = mapRsp r (deliver (completeSearch n)) :=
    ite_deliver_withRsp rfl (ite_deliver_withRsp (hdone _ _) (ite_deliver_withRsp (hdone _ _) rfl))
  unfold completeSlot
  rw [show (n.withRsp r).te = n.te from rfl]
  cases n.te.op with
  | recvBit => exact hdone _ _
  | sendBit => exact hdone _ _
  | recvByte =>
    exact ite_deliver_withRsp
      (deliver_done_withRsp (n := State.teDone { n with te := { n.te with sr := _ } }) h _ _) rfl
  | sendByte => exact ite_deliver_withRsp (hdone _ _) rfl
  | searchBit => exact hsearch
  | searchByte => exact hsearch

theorem ite_mapRsp {p : Prop} [Decidable p] {a b a' b' : Host.Outcome State Fault Refusal} (ha : a' = mapRsp r a)
    (hb : b' = mapRsp r b) : (if p then a' else b') = mapRsp r (if p then a else b) := by
  rw [ha, hb, apply_ite (mapRsp r)]

theorem teTick_withRsp {s n : State} (hte : n.te = s.te) (h : n.noDeviceTransfer) :
    teTick s (n.withRsp r) = mapRsp r (teTick s n) := by
  have hpulse : pulseFromStart (n.withRsp r) = (pulseFromStart n).withRsp r :=
    congrArg (fun m => State.enterIntPulse (State.dlStop m)) (abortTransfer_withRsp h)
  unfold teTick
  cases hp : s.te.phase with
  | idle => rfl
  | start =>
    exact next_withRsp (ite_withRsp (slotStart_withRsp n) (ite_withRsp hpulse
      (ite_withRsp (raiseFault_withRsp h _) rfl)))
  | act => exact next_withRsp (ite_withRsp rfl rfl)
  | ending =>
    have hclient : n.te.client = .rom := h (by simp [hte, hp])
    exact ite_mapRsp (deliver_completeSlot_withRsp hclient)
      (ite_mapRsp (next_withRsp (raiseFault_withRsp h _)) rfl)

/-- While no operation of the device layer is in progress, the rule of the engine state neither reads nor writes the
response (R262, R266). -/
theorem engineTick_withRsp {s n : State} (hte : n.te = s.te) (h : n.noDeviceTransfer) :
    engineTick s (n.withRsp r) = mapRsp r (engineTick s n) := by
  have hquiet : idleQuiet s (n.withRsp r) = (idleQuiet s n).withRsp r := ite_withRsp rfl rfl
  unfold engineTick
  cases s.st with
  | idle =>
    exact next_withRsp (ite_withRsp (ite_withRsp (ite_withRsp (raiseFault_withRsp h _) rfl) hquiet)
      (ite_withRsp rfl hquiet))
  | resetMeasure =>
    exact next_withRsp (ite_withRsp (ite_withRsp rfl (raiseFault_withRsp h _))
      (ite_withRsp rfl (ite_withRsp (raiseFault_withRsp h _) rfl)))
  | intStretch => exact next_withRsp (ite_withRsp rfl rfl)
  | intPulse => exact next_withRsp (ite_withRsp rfl rfl)
  | presenceWait => exact next_withRsp (ite_withRsp rfl rfl)
  | presenceLow => exact next_withRsp (ite_withRsp rfl rfl)
  | romCmd => exact teTick_withRsp hte h
  | romExec => exact teTick_withRsp hte h
  | device => exact ite_mapRsp (next_withRsp (ite_withRsp rfl rfl)) (teTick_withRsp hte h)
  | irqHook => exact next_withRsp (ite_withRsp rfl rfl)
  | unused k => rfl

theorem endTick_withRsp (s m : State) : s.endTick (m.withRsp r) = (s.endTick m).withRsp r := by
  unfold State.endTick
  dsimp only
  split <;> rfl

end

/-! ### Requests that are refused or ignored -/

/-- The three cases of R263. -/
theorem requestTick_refused {s n : State} (hx : s.inp.xreqValid = true)
    (h : n.st ≠ .device ∨ (n.st = .device ∧ n.te.phase = .idle ∧ (s.inp.xreqOp = 6 ∨ s.inp.xreqOp = 7)) ∨
      (n.st = .device ∧ n.te.phase = .idle ∧ n.inp.devEnd = true)) :
    requestTick s n = .next (n.respond .refused 0) := by
  rw [requestTick_of_decode hx (decode_xreqBytes s.cfg _ _), exec_xreq]
  refine congrArg Host.Outcome.next ?_
  obtain ⟨_, e⟩ | ⟨hs, hp, _⟩ | ⟨_, _, _, e⟩ | ⟨hs, hp, hd, o, ho, _⟩ := request_cases
    ((decodeXreq s.inp.xreqOp s.inp.xreqData).transfer.map Prod.fst) _ n
  · exact e
  · simp [hs, hp] at h
  · exact e
  · have hop : s.inp.xreqOp = 6 ∨ s.inp.xreqOp = 7 := by simpa [hs, hp, hd] using h
    rw [(decodeXreq_transfer_eq_none_iff _ _).2 hop] at ho
    cases ho

/-- The device layer is the transfer engine's client only in a session (R261). -/
theorem Inv.noDeviceTransfer {s : State} (h : Inv s) (hs : s.st = .device → s.te.phase = .idle) :
    s.noDeviceTransfer := by
  intro hp
  cases hc : s.te.client with
  | rom => rfl
  | dev => exact absurd (hs ((h.client hp).1 hc)) hp

/-- Settles O13: the answer REFUSED is all that the request writes, and the engine's rule leaves it there, since no
operation of the device layer is in progress. -/
theorem requestsRefused : Obligations.RequestsRefused := by
  intro s hi hr hx h
  have hrom : s.noDeviceTransfer := hi.noDeviceTransfer fun hs => by
    obtain hs' | ⟨_, hp, _⟩ | ⟨_, hp, _⟩ := h
    · exact absurd hs hs'
    · exact hp
    · exact hp
  obtain ⟨m, hm⟩ := engineTick_total s s.beginTick hi.used
  refine ⟨s.endTick m, step_withoutRequest hi.valid hr hm, ?_⟩
  have hreq : requestTick s s.beginTick = .next (s.beginTick.withRsp ⟨true, .refused, 0⟩) := requestTick_refused hx h
  have hrule : engineTick s (s.beginTick.withRsp ⟨true, .refused, 0⟩) = .next (m.withRsp ⟨true, .refused, 0⟩) :=
    (engineTick_withRsp (s := s) (n := s.beginTick) rfl hrom).trans (congrArg (mapRsp _) hm)
  rw [step_run hi.valid hr, runTick, hreq, andThen, hrule, andThen, endTick_withRsp]
  rfl

/-- Settles O14: the tick begins the same without the request, and block reset does not look at it. -/
theorem busyRequestsIgnored : Obligations.BusyRequestsIgnored := by
  intro s hs hp hx
  cases hv : s.cfg.valid with
  | false =>
    exact (step_badConfiguration hv).trans
      (step_badConfiguration (s := s.withInputs { s.inp with xreqValid := false }) hv).symm
  | true =>
    cases hr : s.inp.rstN with
    | false =>
      exact (step_blockReset hv hr).trans
        (step_blockReset (s := s.withInputs { s.inp with xreqValid := false }) hv hr).symm
    | true =>
      have hbase : s.base = s.beginTick := if_neg fun h => h.2 hs
      obtain ⟨m, hm⟩ := engineTick_total s s.beginTick (by simp [hs, EngineState.used])
      rw [step_withoutRequest hv hr hm, step_base hv hr fun h => hp h.2, hbase, hm, andThen]

/-! ### `dev_end` -/

/-- A request in the tick of `dev_end` is REFUSED (R263 (c), R265). -/
theorem requestTick_devEnd {s : State} (hs : s.st = .device) (hp : s.te.phase = .idle) (hd : s.inp.devEnd = true) :
    requestTick s s.beginTick =
      .next (s.beginTick.withRsp (if s.inp.xreqValid then ⟨true, .refused, 0⟩ else ⟨false, .ok, 0⟩)) := by
  cases hx : s.inp.xreqValid with
  | false => simp [requestTick, State.requested, hx, State.withRsp, State.beginTick]
  | true => exact requestTick_refused hx (.inr (.inr ⟨hs, hp, hd⟩))

/-- Settles O49: in an idle session the rule is `State.endSession`, and no other rule looks at `dev_end`. -/
theorem devEnd : Obligations.DevEnd := by
  intro s hv hr hd
  refine ⟨fun hs hp => ?_, fun hbusy => ?_⟩
  · have hends (n : State) : engineTick s n = .next n.endSession := by simp [engineTick, deviceTick, hs, hp, hd]
    rw [step_run hv hr, runTick, requestTick_devEnd hs hp hd, andThen, hends, andThen]
    rfl
  · exact (step_withInputs_unread (x := { s.inp with devEnd := false }) hr hr rfl ⟨rfl, rfl, rfl⟩ ⟨rfl, rfl, rfl⟩
      (fun _ _ => rfl) (fun _ => rfl) (fun hs hp => absurd ⟨hs, hp⟩ hbusy)).symm

/-! ### `set_condition` -/

/-- `set_condition` writes its two fields after every other write of the tick (R267). -/
theorem endTick_setCondition {s : State} {x : Inputs} (hl : x.extLow = s.inp.extLow) (hx : x.condValid = false)
    (hc : s.inp.condValid = true) (m : State) :
    s.endTick m = { (s.withInputs x).endTick (m.withEnv (s.withInputs x).env) with
      alarmAsserted := s.inp.condAlarm, intClass := if s.inp.condClass = 3 then m.intClass else s.inp.condClass } := by
  unfold State.endTick
  rw [State.withInputs_inp, State.withInputs_nextEnv hl, if_pos hc, hx]
  rfl

/-- Settles O52: the request and the engine's rule do not look at the condition's ports, and the end of the tick writes
the two fields alone. -/
theorem setConditionWins : Obligations.SetConditionWins := by
  intro s t hr hc h
  obtain ⟨hv, hused⟩ : s.cfg.valid = true ∧ (s.inp.rstN = false ∨ ∀ k, s.st ≠ .unused k) :=
    (step_next_iff (s.withInputs { s.inp with condValid := false })).1 ⟨t, h⟩
  obtain ⟨n, hn, hn'⟩ := requestTick_withInputs (s := s) (x := { s.inp with condValid := false }) rfl ⟨rfl, rfl, rfl⟩
    fun _ _ => rfl
  obtain ⟨m, hm⟩ := engineTick_total s n ((used_iff s.st).2 (hused.resolve_left (by simp [hr])))
  have hstep := step_withInputs_of_request (x := { s.inp with condValid := false }) hv hr rfl rfl rfl rfl hm hn'
  obtain rfl := Host.Outcome.next.inj (hstep.symm.trans h)
  rw [step_run hv hr, runTick, hn, andThen, hm, andThen,
    endTick_setCondition (x := { s.inp with condValid := false }) rfl rfl hc m]
  rfl

end Sys2Proof.Machine

/-! PROOFS. The statement of 60_exceptions.md: the engine state moves along the transition table of R302. -/

namespace Sys2Proof.Machine

/-! ### The rows of the transition table, sorted by engine state -/

theorem fixedRow_of_blockReset {s : State} (hr : s.inp.rstN = false) (x : EngineState) : fixedRow s x ↔ x = .idle := by
  simp [fixedRow, hr]

section

variable {s : State} (hr : s.inp.rstN = true)

include hr

theorem fixedRow_idle (hs : s.st = .idle) (x : EngineState) : fixedRow s x ↔
    (s.cfg.hasSleep = false ∧ s.edgeFall = true ∧ x = .resetMeasure) ∨
    (s.cfg.hasSleep = true ∧ s.inp.wake = true ∧ s.lineS = false ∧ x = .resetMeasure) ∨
    (s.cfg.hasSleep = true ∧ s.inp.wake = true ∧ s.lineS = true ∧ x = .irqHook) ∨
    (s.cfg.hasSleep = false ∧ s.edgeFall = false ∧ s.class2Pending = true ∧ x = .intPulse) ∨
    (s.cfg.hasSleep = true ∧ s.inp.wake = false ∧ s.class2Pending = true ∧ x = .intPulse) := by
  simp [fixedRow, hr, hs, EngineState.runsTe]

theorem fixedRow_resetMeasure (hs : s.st = .resetMeasure) (x : EngineState) : fixedRow s x ↔
    (s.lineS = true ∧ (s.rstQualified = true ∨ (s.cfg.tResetMin : Int) ≤ s.resetWidth) ∧ x = .presenceWait) ∨
    (s.lineS = true ∧ s.rstQualified = false ∧ s.resetWidth < (s.cfg.tResetMin : Int) ∧ x = .idle) ∨
    (s.lineS = false ∧ (s.class1Pending = true ∧ s.rstQualified = false ∧ (s.cfg.tResetMin : Int) ≤ s.resetWidth) ∧
      x = .intStretch) ∨
    (s.lineS = false ∧ s.dlRemaining < 0 ∧
      ¬(s.class1Pending = true ∧ s.rstQualified = false ∧ (s.cfg.tResetMin : Int) ≤ s.resetWidth) ∧ x = .idle) := by
  simp [fixedRow, State.resetWidth, hr, hs, EngineState.runsTe, and_assoc]

/-- A waiting state is left when its delay ends, and by nothing else (R207, R209, R210, R211). -/
theorem fixedRow_delays (hs : s.st.delays = true) (x : EngineState) :
    fixedRow s x ↔ s.dly = 1 ∧ x = (delayExit s.st s).st := by
  obtain hs | hs | hs | hs := (delays_iff s.st).1 hs <;> simp [fixedRow, hr, hs, EngineState.runsTe, delayExit]

theorem fixedRow_irqHook (hs : s.st = .irqHook) (x : EngineState) : fixedRow s x ↔ s.inp.irqAck = true ∧ x = .idle := by
  simp [fixedRow, hr, hs, EngineState.runsTe]

theorem fixedRow_sessionIdle (hs : s.st = .device) (hp : s.te.phase = .idle) (x : EngineState) :
    fixedRow s x ↔ s.inp.devEnd = true ∧ x = .idle := by
  simp [fixedRow, hr, hs, hp, EngineState.runsTe]

/-- A running transfer is left by the class-2 pulse and the two faults of a slot (R154, R156, R157). -/
theorem fixedRow_running (hs : s.st.runsTe = true) (hp : s.te.phase ≠ .idle) (x : EngineState) : fixedRow s x ↔
    (s.te.phase = .start ∧ s.edgeFall = false ∧ s.class2Pending = true ∧ x = .intPulse) ∨
    (s.te.phase = .start ∧ s.edgeFall = false ∧ s.class2Pending = false ∧ s.dlRemaining < 0 ∧ x = .idle) ∨
    (s.te.phase = .ending ∧ s.lineS = false ∧ (s.cfg.slotEndBounded = true ∧ s.dlRemaining < 0) ∧
      x = .resetMeasure) := by
  have hst : s.st = .romCmd ∨ s.st = .romExec ∨ s.st = .device := by simpa [EngineState.runsTe, or_assoc] using hs
  obtain hst | hst | hst := hst <;> simp [fixedRow, hr, hst, hp, EngineState.runsTe, and_assoc]

end

/-- What R302 lets a tick make of the engine state: `x` is reached by a row or is the old state, it is the target of every
fixed row that applies, and a target of the command's row when that applies. -/
structure FollowsTable (s : State) (x : EngineState) : Prop where
  left : x ≠ s.st → fixedRow s x ∨ commandRow s x
  fixed : ∀ y, fixedRow s y → x = y
  command : ∀ y, commandRow s y → commandRow s x

namespace FollowsTable

variable {s : State} {x : EngineState}

theorem of_fixedRow (hc : ¬opCompletes s) (h : ∀ y, fixedRow s y ↔ y = x) : FollowsTable s x :=
  ⟨fun _ => .inl ((h x).2 rfl), fun y hy => ((h y).1 hy).symm, fun _ ⟨_, hc', _⟩ => absurd hc' hc⟩

theorem of_noRow (hc : ∀ y, ¬commandRow s y) (hf : ∀ y, ¬fixedRow s y) (hx : x = s.st) : FollowsTable s x :=
  ⟨fun hne => absurd hx hne, fun y hy => absurd hy (hf y), fun y hy => absurd hy (hc y)⟩

theorem of_stays (hc : ¬opCompletes s) (hf : ∀ y, ¬fixedRow s y) (hx : x = s.st) : FollowsTable s x :=
  of_noRow (fun _ ⟨_, hc', _⟩ => hc hc') hf hx

theorem of_commandRow (h : commandRow s x) (hf : ∀ y, ¬fixedRow s y) : FollowsTable s x :=
  ⟨fun _ => .inr h, fun y hy => absurd hy (hf y), fun _ _ => h⟩

end FollowsTable

/-! ### Where a ROM command takes the engine state -/

/-- Where a completed data transfer takes the engine state: to DEVICE or IDLE when it is the command's last one, else to
the next transfer in ROM_EXEC. -/
structure EndsIfLast (last : Prop) (x : EngineState) : Prop where
  ends : last → x = .device ∨ x = .idle
  goesOn : ¬last → x = .romExec

namespace EndsIfLast

variable {n : State}

theorem searchNext (hs : n.st = .romExec) :
    EndsIfLast (n.te.d ≠ bitOf n.te.sr n.te.cnt ∨ n.rom.idx = 7) n.searchNext.st := by
  refine ⟨fun h => .inr (by rw [searchNext_ends h, State.notSelected_st]), fun h => ?_⟩
  obtain ⟨hd, hidx⟩ := not_or.1 h
  rw [searchNext_goesOn (not_not.1 hd) hidx, State.nextIdByte_st, hs]

theorem sendNext {last : State → State} (hs : n.st = .romExec) (hlast : (last n).st = .device ∨ (last n).st = .idle) :
    EndsIfLast (n.rom.idx = 7) (n.sendNext last).st := by
  refine ⟨fun h => by rwa [sendNext_ends h], fun h => ?_⟩
  rw [sendNext_goesOn h, State.nextIdByte_st, hs]

theorem matchNext (hs : n.st = .romExec) : EndsIfLast (n.rom.idx = 7) n.matchNext.st := by
  refine ⟨fun h => ?_, fun h => ?_⟩
  · rw [matchNext_last h]
    split
    · exact .inl rfl
    · exact .inr rfl
  · rw [matchNext_goesOn h, State.nextRxByte_st, State.storeRx_st, hs]

/-- WRITE ROM turns to its echo after the eighth received byte, and ends after the eighth echoed one (R236). -/
theorem writeNext (hs : n.st = .romExec) : EndsIfLast (n.rom.idx = 7 ∧ n.rom.step = .tx) n.writeNext.st := by
  cases hstep : n.rom.step with
  | tx =>
    rw [writeNext_tx hstep]
    simpa using sendNext (last := State.notSelected) hs (.inr rfl)
  | rx =>
    refine ⟨fun h => (by simp at h), fun _ => ?_⟩
    rw [writeNext_rx hstep]
    split_ifs <;> exact hs

end EndsIfLast

/-- `lastOfCommand` is each command's own condition for ending (R232 to R237). -/
theorem exec_transfer_endsIfLast {n t : State} (hs : n.st = .romExec)
    (hop : romExecOp (decodeRomCmd n.cfg n.rom.cmd) n.rom.step = some n.te.op)
    (ht : exec (decodeRomCmd n.cfg n.rom.cmd) n = .next t) : EndsIfLast (lastOfCommand n) t.st := by
  have hread : (State.readRomEnd n).st = .device ∨ (State.readRomEnd n).st = .idle := by
    rw [readRomEnd_st]
    split
    · exact .inl rfl
    · exact .inr rfl
  unfold lastOfCommand
  cases hi : decodeRomCmd n.cfg n.rom.cmd <;> rw [hi] at hop ht <;>
    simp only [romExecOp, reduceCtorEq, Option.some.injEq] at hop <;>
    obtain rfl := Host.Outcome.next.inj ht <;> rw [if_pos hs]
  case searchRom => simpa [← hop, or_comm] using EndsIfLast.searchNext hs
  case condSearch => simpa [← hop, or_comm] using EndsIfLast.searchNext hs
  case readRom => simpa [← hop] using EndsIfLast.sendNext hs hread
  case readRom0F => simpa [← hop] using EndsIfLast.sendNext hs hread
  case matchRom => simpa [← hop] using EndsIfLast.matchNext hs
  case writeRom =>
    have hbyte : n.te.op ≠ .searchByte := fun e => by
      cases hstep : n.rom.step <;> simp [hstep, e] at hop
    simpa [hbyte] using EndsIfLast.writeNext hs

/-- The completed transfer's state has what `lastOfCommand` reads: only a received byte changes `te_sr` (R179). -/
theorem finished_lastOfCommand (s : State) : lastOfCommand s.finished ↔ lastOfCommand s := by
  by_cases hop : s.te.op = .searchByte <;> simp [lastOfCommand, State.finished, State.completedSr, hop]

/-- The dispatch of the command byte leads to ROM_EXEC, DEVICE or IDLE (R231). -/
theorem exec_dispatch_st {n t : State} {c : Byte} (hs : n.st ≠ .romExec)
    (ht : exec (decodeRomCmd n.cfg c) n = .next t) : t.st = .romExec ∨ t.st = .device ∨ t.st = .idle := by
  obtain rfl | rfl | ⟨op, data, step, _, rfl⟩ := exec_dispatch_cases hs ht
  · exact .inr (.inl rfl)
  · exact .inr (.inr rfl)
  · exact .inl rfl

/-- A ROM command acts only in ROM_CMD and ROM_EXEC (R212, R231, R261). -/
theorem Inv.st_of_romClient {s : State} (h : Inv s) (hs : s.st.runsTe = true) (hp : s.te.phase ≠ .idle)
    (hd : s.te.client = .rom) : s.st = .romCmd ∨ s.st = .romExec := by
  have hdev : s.st ≠ .device := fun hs => by simp [(h.client hp).2 hs] at hd
  simpa [EngineState.runsTe, hdev] using hs

theorem followsTable_of_command {s m : State} (h : Inv s) (hr : s.inp.rstN = true) (hs : s.st.runsTe = true)
    (hc : opCompletes s) (hd : s.te.client = .rom) (hm : exec s.finished.commandAt s.finished = .next m) :
    FollowsTable s m.st := by
  obtain ⟨hp, hl, _⟩ := id hc
  have hrun : s.te.phase ≠ .idle := by simp [hp]
  have hfixed (y : EngineState) : ¬fixedRow s y := by simp [fixedRow_running hr hs hrun, hp, hl]
  have hst : s.finished.st = s.st := s.base_st
  unfold State.commandAt at hm
  obtain hs | hs := h.st_of_romClient hs hrun hd
  · have hne : s.finished.st ≠ .romExec := by simp [hst, hs]
    rw [if_neg hne] at hm
    exact .of_commandRow ⟨hr, hc, .inl ⟨hs, exec_dispatch_st hne hm⟩⟩ hfixed
  · have hexec : s.finished.st = .romExec := hst.trans hs
    rw [if_pos hexec] at hm
    have hends := exec_transfer_endsIfLast hexec (by simpa [State.finished] using h.romExec hs) hm
    rw [finished_lastOfCommand] at hends
    by_cases hlast : lastOfCommand s
    · exact .of_commandRow ⟨hr, hc, .inr ⟨hs, hlast, hends.ends hlast⟩⟩ hfixed
    · exact .of_noRow (by simp [commandRow, hs, hlast]) hfixed ((hends.goesOn hlast).trans hs.symm)

theorem slotStart_st (n : State) : (slotStart n).st = n.st := by
  obtain ⟨_, e⟩ | ⟨_, _, e⟩ | ⟨_, _, e⟩ := slotStart_cases n <;> rw [e]

theorem completeSlot_more_st {n m : State} (h : completeSlot n = .more m) : m.st = n.st := by
  obtain ⟨_, _, _, e⟩ | ⟨_, _, _, e⟩ := completeSlot_cases n <;> rw [e] at h <;> cases h
  rfl

theorem EngineState.runsTe_of_delays {x : EngineState} (h : x.delays = true) : x.runsTe = false := by
  obtain rfl | rfl | rfl | rfl := (delays_iff x).1 h <;> rfl

/-- Each rule of a tick is a row of the table, or leaves the engine state where no row applies. -/
theorem TickRule.followsTable {s m : State} (h : Inv s) (hr : s.inp.rstN = true) (hrule : TickRule s m) :
    FollowsTable s m.st := by
  have hquiet (hs : s.st.runsTe = false) : ¬opCompletes s := fun ⟨hp, _⟩ => by
    simp [h.teRuns (by simp [hp])] at hs
  have hopen (hp : s.te.phase ≠ .ending) : ¬opCompletes s := fun hc => hp hc.1
  have hlow (hl : s.lineS = false) : ¬opCompletes s := fun ⟨_, hl', _⟩ => by simp [hl] at hl'
  have hdelay (hs : s.st.delays = true) (hd : s.dly = 1) : FollowsTable s (delayExit s.st s).st :=
    .of_fixedRow (hquiet (EngineState.runsTe_of_delays hs)) (by simp [fixedRow_delays hr hs, hd])
  have hbase : s.base.st = s.st := s.base_st
  cases hrule
  case resetEdge hs hb he => exact .of_fixedRow (hquiet (hs ▸ rfl)) (by simp [fixedRow_idle hr hs, hb, he])
  case wakeLow hs hb hw hl => exact .of_fixedRow (hlow hl) (by simp [fixedRow_idle hr hs, hb, hw, hl])
  case wakeHigh hs hb hw hl =>
    exact .of_fixedRow (x := .irqHook) (hquiet (hs ▸ rfl)) (by simp [fixedRow_idle hr hs, hb, hw, hl])
  case idlePulse hs hc he hw =>
    refine .of_fixedRow (hquiet (hs ▸ rfl)) fun y => ?_
    cases hb : s.cfg.hasSleep with
    | false => simp [fixedRow_idle hr hs, hb, hc, he hb]
    | true => simp [fixedRow_idle hr hs, hb, hc, hw hb]
  case idleWaits hs hc he hw =>
    refine .of_stays (hquiet (hs ▸ rfl)) (fun y => ?_) hbase
    cases hb : s.cfg.hasSleep with
    | false => simp [fixedRow_idle hr hs, hb, hc, he hb]
    | true => simp [fixedRow_idle hr hs, hb, hc, hw hb]
  case resetEnds hs hl hw =>
    refine .of_fixedRow (hquiet (hs ▸ rfl)) fun y => ?_
    obtain hq | hw := hw
    · simp [fixedRow_resetMeasure hr hs, hl, hq]
    · simp [fixedRow_resetMeasure hr hs, hl, hw, hw.not_gt]
  case resetShort hs hl hq hw =>
    exact .of_fixedRow (x := .idle) (hquiet (hs ▸ rfl))
      (by simp [fixedRow_resetMeasure hr hs, hl, hq, hw, hw.not_ge])
  case resetStretches hs hl hc hq hw =>
    exact .of_fixedRow (hlow hl) (by simp [fixedRow_resetMeasure hr hs, hl, hc, hq, hw])
  case resetLong hs hl hd hc =>
    exact .of_fixedRow (x := .idle) (hlow hl) (by simp [fixedRow_resetMeasure hr hs, hl, hd, hc])
  case resetGoesOn hs hl hd hc =>
    exact .of_stays (hlow hl) (by simp [fixedRow_resetMeasure hr hs, hl, hd.not_gt, hc]) hbase
  case delayGoesOn hs hd =>
    exact .of_stays (hquiet (EngineState.runsTe_of_delays hs)) (by simp [fixedRow_delays hr hs, hd]) hbase
  case stretchEnds hs hd => simpa [hs, delayExit] using hdelay (hs ▸ rfl) hd
  case pulseEnds hs hd => simpa [hs, delayExit] using hdelay (hs ▸ rfl) hd
  case presenceStarts hs hd => simpa [hs, delayExit] using hdelay (hs ▸ rfl) hd
  case presenceEnds hs hd => simpa [hs, delayExit] using hdelay (hs ▸ rfl) hd
  case hookLeaves hs ha => exact .of_fixedRow (hquiet (hs ▸ rfl)) (by simp [fixedRow_irqHook hr hs, ha])
  case hookWaits hs ha => exact .of_stays (hquiet (hs ▸ rfl)) (by simp [fixedRow_irqHook hr hs, ha]) hbase
  case requestBegins hs hp hd op data =>
    exact .of_stays (hopen (by simp [hp])) (by simp [fixedRow_sessionIdle hr hs hp, hd]) rfl
  case sessionEnds hs hp hd n hn =>
    exact .of_fixedRow (hopen (by simp [hp])) (by simp [fixedRow_sessionIdle hr hs hp, hd])
  case sessionWaits hs hp hd hn =>
    exact .of_stays (hopen (by simp [hp])) (by simp [fixedRow_sessionIdle hr hs hp, hd])
      (by rcases hn with rfl | rfl <;> rfl)
  case transferMissing hs hp => exact absurd hp (h.teBusy hs)
  case slotStarts hs hp he =>
    exact .of_stays (hopen (by simp [hp])) (by simp [fixedRow_running hr hs, hp, he]) ((slotStart_st _).trans hbase)
  case slotPulse hs hp he hc =>
    exact .of_fixedRow (x := .intPulse) (hopen (by simp [hp])) (by simp [fixedRow_running hr hs, hp, he, hc])
  case slotTimeout hs hp he hc hd =>
    exact .of_fixedRow (x := .idle) (hopen (by simp [hp])) (by simp [fixedRow_running hr hs, hp, he, hc, hd])
  case slotWaits hs hp he hc hd =>
    exact .of_stays (hopen (by simp [hp])) (by simp [fixedRow_running hr hs, hp, he, hc, hd.not_gt]) hbase
  case actGoesOn hs hp hd => exact .of_stays (hopen (by simp [hp])) (by simp [fixedRow_running hr hs, hp]) hbase
  case actEnds hs hp hd => exact .of_stays (hopen (by simp [hp])) (by simp [fixedRow_running hr hs, hp]) hbase
  case slotOverlong hs hp hl hb hd =>
    exact .of_fixedRow (x := .resetMeasure) (hlow hl) (by simp [fixedRow_running hr hs, hp, hl, hb, hd])
  case endWaits hs hp hl hb => exact .of_stays (hlow hl) (by simp [fixedRow_running hr hs, hp, hl, hb]) hbase
  case slotFollows hs hp hl hc hm =>
    exact .of_stays hc (by simp [fixedRow_running hr hs, hp, hl]) ((completeSlot_more_st hm).trans hbase)
  case deviceAnswered hs hc hd x data =>
    have hdev : s.st = .device := (h.client (by simp [hc.1])).1 hd
    exact .of_noRow (by simp [commandRow, hdev]) (by simp [fixedRow_running hr hs, hc.1, hc.2.1]) hbase
  case commandActs hs hc hd hm => exact followsTable_of_command h hr hs hc hd hm

/-- Settles O56: block reset is a row of its own, and every other tick is one of the rules of R302. -/
theorem transitionTable : Obligations.TransitionTable := by
  intro s t h hstep
  suffices htable : FollowsTable s t.st from ⟨htable.left, htable.fixed, htable.command⟩
  cases hr : s.inp.rstN with
  | false =>
    obtain rfl := Host.Outcome.next.inj ((step_blockReset h.valid hr).symm.trans hstep)
    exact ⟨fun _ => .inl ((fixedRow_of_blockReset hr _).2 rfl), fun y hy => ((fixedRow_of_blockReset hr y).1 hy).symm,
      fun y hy => by simp [commandRow, hr] at hy⟩
  | true =>
    obtain ⟨m, hrule, rfl⟩ := step_tickRule hr hstep
    rw [State.endTick_st]
    exact hrule.followsTable h hr

end Sys2Proof.Machine
